-- ==== Sys2Proof/Word.lean ====
section
/-! DEFINITION. The word types of the block (00_scope.md R7, R8): bytes, 7-bit device addresses and binary32
values as bits. Bit 0 is the least significant bit; every value is unsigned. -/

namespace Sys2Proof

/-- A byte: CFG, a register value, a register address, a command word (R7). -/
abbrev Byte := BitVec 8

/-- A 7-bit bus address (R7, R27). -/
abbrev Addr7 := BitVec 7

/-- The 32 bits of an IEEE 754 binary32 value: sign 31, exponent 30:23, fraction 22:0 (R7; log 8). -/
abbrev Binary32 := BitVec 32

/-- The 64 bits of an IEEE 754 binary64 value, used by `LUX_ARITH = F64` only (R9, R86; log 8). -/
abbrev Binary64 := BitVec 64

end Sys2Proof
end

