-- ==== Sys2Proof/Config.lean ====
section
/-! DEFINITION. What is fixed for one block (00_scope.md R7) and the free values of the bus oracle (20_memory.md R32).
The free values are opaque: no proof can see a value of them. -/

namespace Sys2Proof

/-- The strap input of creation, with its three spellings (R57, R68). -/
inductive AddressSelector where
  | default
  | alternative (pin : Bool)
deriving DecidableEq, Repr

/-- The two readings of the lux arithmetic (R86, decision D6). -/
inductive LuxArith where
  | f32
  | f64
deriving DecidableEq, Repr

/-- Which names the error values of the machine under the host's interface have (`BusError`). Opaque, so that no proof can
tell which values there are, nor how many. Log 5. -/
opaque Config.isErrorName : Nat → Bool

/-- The open error type `E` of R7 is the type parameter `E` of every type and operation under Machine/, with nothing
assumed of it (D7). `BusError` is the one type put for `E` where the host's interface asks for a machine of closed plain
data: the values under the names admitted, the first always among them, since a request can fail (R31). Log 5. -/
structure BusError where
  name : Nat
  admitted : (name == 0 || Config.isErrorName name) = true
deriving DecidableEq, Repr

namespace Config

/-- `BASE_ADDR` (R7, R68). -/
def baseAddr : Addr7 := 0b1001010#7

/-- Register addresses of the sensor (R7, R28). -/
def intStatus : Byte := 0x00#8
def intEnable : Byte := 0x01#8
def configuration : Byte := 0x02#8
def luxHigh : Byte := 0x03#8

/-- `LUX_C`, the binary32 nearest to 0.045 (R86). -/
def luxC : Binary32 := 0x3D3851EC#32

/-- `f64(0.045)`, the binary64 nearest to 0.045, for `LUX_ARITH = F64` only. DEDUCED, log 9: the spec names the value
and the rounding (R9, R86), and these bits are computed from them. -/
def luxC64 : Binary64 := 0x3FA70A3D70A3D70A#64

/-- `LUX_ARITH`, at the value R7 gives it (R86, decision D6). Log 7. -/
def luxArith : LuxArith := .f32

/-- FREE VALUE (R32): whether the `k`-th request that no placed answer settles fails, and with which error. Log 4. -/
opaque busFailure {E : Type} : Nat → Option E

/-- FREE VALUE (R32): byte `i` of the data the oracle returns to the `k`-th request, when no placed answer settles it.
Log 4. -/
opaque busByte : Nat → Nat → Byte

end Config

end Sys2Proof
end

