-- ==== Sys2Proof/Syntax.lean ====
section
/-! DEFINITION. The commands of the block: the operand values (30_encoding.md section 2) and one constructor of `Instr`
per row of spec/opcode_table.json (R62). -/

namespace Sys2Proof

/-- R49: `MeasurementMode`, CONFIGURATION bit 7. -/
inductive MeasurementMode where
  | onceEvery800ms
  | continuous
deriving DecidableEq, Repr

/-- R50: `ConfigurationMode`, CONFIGURATION bit 6. -/
inductive ConfigurationMode where
  | automatic
  | manual
deriving DecidableEq, Repr

/-- R51: `CurrentDivisionRatio`, CONFIGURATION bit 3. -/
inductive CurrentDivisionRatio where
  | one
  | oneEighth
deriving DecidableEq, Repr

/-- R52: `IntegrationTime`, CONFIGURATION bits 2:0. -/
inductive IntegrationTime where
  | t800ms
  | t400ms
  | t200ms
  | t100ms
  | t50ms
  | t25ms
  | t12_5ms
  | t6_25ms
deriving DecidableEq, Repr

/-- R62: the ten commands, with the operands of R61. -/
inductive Instr where
  | setmeas (m : MeasurementMode)
  | setcfgm (c : ConfigurationMode)
  | setcdr (r : CurrentDivisionRatio)
  | settim (t : IntegrationTime)
  | setinten (b : Bool)
  | rdlux
  | rdtim
  | rdcdr
  | rdint
  | release
deriving DecidableEq, Repr

end Sys2Proof
end

