-- ==== Sys2Proof/WellFormed.lean ====
section
/-! DEFINITION. Well-formedness. The operands of `Instr` are enumerations, so every term of `Instr` is a command
(30_encoding.md R61). What can be ill-formed is a command WORD: the checks here are the format table (R59) and the match
and mask table (R62), written apart from the decoder so that the two can be compared. -/

namespace Sys2Proof

/-- Every operand of every constructor has only legal values (R61), so each command is well-formed. -/
def Instr.wellFormed : Instr → Bool
  | .setmeas _ => true
  | .setcfgm _ => true
  | .setcdr _ => true
  | .settim _ => true
  | .setinten _ => true
  | .rdlux => true
  | .rdtim => true
  | .rdcdr => true
  | .rdint => true
  | .release => true

/-- A row of the opcode map of R62. -/
structure OpRow where
  mnemonic : String
  matchBits : Byte
  mask : Byte
deriving DecidableEq, Repr

/-- A word matches a row when `(w & mask) == match` (R62). -/
def OpRow.accepts (r : OpRow) (w : Byte) : Bool := w &&& r.mask == r.matchBits

/-- The opcode map, row by row as R62 prints it. -/
def opcodeMap : List OpRow :=
  [ ⟨"SETMEAS", 0x10#8, 0xFE#8⟩, ⟨"SETCFGM", 0x20#8, 0xFE#8⟩, ⟨"SETCDR", 0x30#8, 0xFE#8⟩,
    ⟨"SETTIM", 0x40#8, 0xF8#8⟩, ⟨"SETINTEN", 0x50#8, 0xFE#8⟩ ] ++
  [ ⟨"RDLUX", 0x60#8, 0xFF#8⟩, ⟨"RDTIM", 0x70#8, 0xFF#8⟩, ⟨"RDCDR", 0x80#8, 0xFF#8⟩,
    ⟨"RDINT", 0x90#8, 0xFF#8⟩, ⟨"RELEASE", 0xA0#8, 0xFF#8⟩ ]

/-- The three operand shapes of R59. -/
inductive Format where
  | f1
  | f3
  | f0
deriving DecidableEq, Repr

/-- The opcode field `w[7:4]` and the operand field `w[3:0]` (R59). -/
def opField (w : Byte) : BitVec 4 := w.extractLsb' 4 4
def operandField (w : Byte) : BitVec 4 := w.extractLsb' 0 4

/-- Check 1: the opcode is assigned, and its format (R59, R62). -/
def formatOf (w : Byte) : Option Format :=
  match opField w with
  | 0x1#4 | 0x2#4 | 0x3#4 | 0x5#4 => some .f1
  | 0x4#4 => some .f3
  | 0x6#4 | 0x7#4 | 0x8#4 | 0x9#4 | 0xA#4 => some .f0
  | _ => none

/-- Check 2, per format: the operand bits that R59 fixes at 0 are 0. -/
def operandLegal (f : Format) (w : Byte) : Bool :=
  match f with
  | .f1 => operandField w &&& 0b1110#4 == 0#4
  | .f3 => operandField w &&& 0b1000#4 == 0#4
  | .f0 => operandField w == 0#4

/-- A command word is well-formed when both checks pass (R59). -/
def wordWellFormed (w : Byte) : Bool :=
  match formatOf w with
  | some f => operandLegal f w
  | none => false

end Sys2Proof
end

