-- ==== Sys2Proof/Decode.lean ====
section
/-! DEFINITION. The encodings of 30_encoding.md: the codes of the operand values (section 2), the decoder and the encoder
of command words (sections 4 to 7), and the assembler's lines (section 8). -/

namespace Sys2Proof

/-! ## Codes of the operand values -/

/-- R49: `enc_meas` and its inverse. -/
def encMeas : MeasurementMode → BitVec 1
  | .onceEvery800ms => 0#1
  | .continuous => 1#1
def decMeas (b : BitVec 1) : MeasurementMode := if b = 1#1 then .continuous else .onceEvery800ms

/-- R50: `enc_cfgm` and its inverse. -/
def encCfgm : ConfigurationMode → BitVec 1
  | .automatic => 0#1
  | .manual => 1#1
def decCfgm (b : BitVec 1) : ConfigurationMode := if b = 1#1 then .manual else .automatic

/-- R51: `enc_cdr` and `dec_cdr`. -/
def encCdr : CurrentDivisionRatio → BitVec 1
  | .one => 0#1
  | .oneEighth => 1#1
def decCdr (b : BitVec 1) : CurrentDivisionRatio := if b = 1#1 then .oneEighth else .one

/-- R52: `enc_tim`, the ordinal. -/
def encTim : IntegrationTime → BitVec 3
  | .t800ms => 0#3
  | .t400ms => 1#3
  | .t200ms => 2#3
  | .t100ms => 3#3
  | .t50ms => 4#3
  | .t25ms => 5#3
  | .t12_5ms => 6#3
  | .t6_25ms => 7#3

/-- R53: `dec_tim`, total on the eight codes; the last arm is code 7. -/
def decTim (k : BitVec 3) : IntegrationTime :=
  match k with
  | 0#3 => .t800ms
  | 1#3 => .t400ms
  | 2#3 => .t200ms
  | 3#3 => .t100ms
  | 4#3 => .t50ms
  | 5#3 => .t25ms
  | 6#3 => .t12_5ms
  | 7#3 => .t6_25ms

/-- R55: `enc_inten`, a whole byte for INT_ENABLE. -/
def encInten (b : Bool) : Byte := if b then 0x01#8 else 0x00#8

/-- R56: `dec_int`, on the whole INT_STATUS byte. -/
def decInt (s : Byte) : Bool := s != 0x00#8

/-! ## The decoder -/

/-- Why a word is illegal: the four classes of R64. -/
inductive DecodeError where
  /-- OP = 0x0 or OP in 0xB to 0xF. -/
  | opcodeUnassigned
  /-- An F1 word with a non-zero bit among bits 3:1. -/
  | f1OperandReserved
  /-- A SETTIM word with bit 3 set. -/
  | f3OperandReserved
  /-- An F0 word with a non-zero operand field. -/
  | f0OperandNonZero
deriving DecidableEq, Repr

/-- The operand `v = w[0]` of an F1 word, and `t = w[2:0]` of an F3 word (R61). -/
def f1Operand (w : Byte) : BitVec 1 := w.extractLsb' 0 1
def f3Operand (w : Byte) : BitVec 3 := w.extractLsb' 0 3

/-- An F1 word decodes when bits 3:1 are 0 (R59, R64). -/
def decodeF1 (w : Byte) (command : BitVec 1 → Instr) : Except DecodeError Instr :=
  if w.extractLsb' 1 3 = 0#3 then .ok (command (f1Operand w)) else .error .f1OperandReserved

/-- An F3 word decodes when bit 3 is 0 (R59, R64). -/
def decodeF3 (w : Byte) (command : BitVec 3 → Instr) : Except DecodeError Instr :=
  if w.extractLsb' 3 1 = 0#1 then .ok (command (f3Operand w)) else .error .f3OperandReserved

/-- An F0 word decodes when bits 3:0 are 0 (R59, R64). -/
def decodeF0 (w : Byte) (command : Instr) : Except DecodeError Instr :=
  if w.extractLsb' 0 4 = 0#4 then .ok command else .error .f0OperandNonZero

/-- R63: `decode`, total on all 256 words. -/
def decodeWord (w : Byte) : Except DecodeError Instr :=
  match w.extractLsb' 4 4 with
  | 0x1#4 => decodeF1 w (fun v => .setmeas (decMeas v))
  | 0x2#4 => decodeF1 w (fun v => .setcfgm (decCfgm v))
  | 0x3#4 => decodeF1 w (fun v => .setcdr (decCdr v))
  | 0x4#4 => decodeF3 w (fun t => .settim (decTim t))
  | 0x5#4 => decodeF1 w (fun v => .setinten (v == 1#1))
  | 0x6#4 => decodeF0 w .rdlux
  | 0x7#4 => decodeF0 w .rdtim
  | 0x8#4 => decodeF0 w .rdcdr
  | 0x9#4 => decodeF0 w .rdint
  | 0xA#4 => decodeF0 w .release
  | _ => .error .opcodeUnassigned

/-- The decoder on a word numbered as spec/opcode_table.json numbers it. A command is one byte (R60): `w` is read as a
byte when it has no bit at or above `nbits`, and no longer form exists. -/
def decodeTableWord (nbits w : Nat) : Option Instr :=
  if nbits ≤ 8 ∧ w < 2 ^ nbits then (decodeWord (BitVec.ofNat 8 w)).toOption else none

/-! ## The encoder -/

/-- The word of a command, from the pattern column of R62: the opcode above the operand field of R59. -/
def encodeWord : Instr → Byte
  | .setmeas m => 0x1#4 ++ (0#3 ++ encMeas m)
  | .setcfgm c => 0x2#4 ++ (0#3 ++ encCfgm c)
  | .setcdr r => 0x3#4 ++ (0#3 ++ encCdr r)
  | .settim t => 0x4#4 ++ (0#1 ++ encTim t)
  | .setinten b => 0x5#4 ++ (0#3 ++ BitVec.ofBool b)
  | .rdlux => 0x60#8
  | .rdtim => 0x70#8
  | .rdcdr => 0x80#8
  | .rdint => 0x90#8
  | .release => 0xA0#8

/-! ## Assembler lines (R65), read as a mnemonic and at most one operand (log 14) -/

/-- A value of `table` under its name. -/
def named {α : Type} (table : List (String × α)) (name : String) : Option α :=
  (table.find? (fun e => e.1 == name)).map Prod.snd

/-- The operand names of R65, in its order. -/
def measNames : List (String × MeasurementMode) :=
  [("Continuous", .continuous), ("OnceEvery800ms", .onceEvery800ms)]
def cfgmNames : List (String × ConfigurationMode) := [("Manual", .manual), ("Automatic", .automatic)]
def cdrNames : List (String × CurrentDivisionRatio) := [("OneEighth", .oneEighth), ("One", .one)]
def timNames : List (String × IntegrationTime) :=
  [ ("T800ms", .t800ms), ("T400ms", .t400ms), ("T200ms", .t200ms), ("T100ms", .t100ms),
    ("T50ms", .t50ms), ("T25ms", .t25ms), ("T12_5ms", .t12_5ms), ("T6_25ms", .t6_25ms) ]
def intenNames : List (String × Bool) := [("enable", true), ("disable", false)]

/-- The commands that take no operand, under their mnemonics. -/
def f0Names : List (String × Instr) :=
  [("RDLUX", .rdlux), ("RDTIM", .rdtim), ("RDCDR", .rdcdr), ("RDINT", .rdint), ("RELEASE", .release)]

/-- R65: the command of a line. -/
def parseLine (mnemonic : String) (operand : Option String) : Option Instr :=
  match operand with
  | none => named f0Names mnemonic
  | some o =>
    if mnemonic == "SETMEAS" then (named measNames o).map .setmeas
    else if mnemonic == "SETCFGM" then (named cfgmNames o).map .setcfgm
    else if mnemonic == "SETCDR" then (named cdrNames o).map .setcdr
    else if mnemonic == "SETTIM" then (named timNames o).map .settim
    else if mnemonic == "SETINTEN" then (named intenNames o).map .setinten
    else none

/-- The mnemonic column of R62, and the operand's name in R65. -/
def mnemonicOf : Instr → String
  | .setmeas _ => "SETMEAS"
  | .setcfgm _ => "SETCFGM"
  | .setcdr _ => "SETCDR"
  | .settim _ => "SETTIM"
  | .setinten _ => "SETINTEN"
  | .rdlux => "RDLUX"
  | .rdtim => "RDTIM"
  | .rdcdr => "RDCDR"
  | .rdint => "RDINT"
  | .release => "RELEASE"
def nameIn {α : Type} [DecidableEq α] (table : List (String × α)) (a : α) : Option String :=
  (table.find? (fun e => e.2 == a)).map Prod.fst
def operandNameOf : Instr → Option String
  | .setmeas m => nameIn measNames m
  | .setcfgm c => nameIn cfgmNames c
  | .setcdr r => nameIn cdrNames r
  | .settim t => nameIn timNames t
  | .setinten b => nameIn intenNames b
  | .rdlux => none
  | .rdtim => none
  | .rdcdr => none
  | .rdint => none
  | .release => none

/-- R65: every line assembles to one word. -/
def assembleLine (mnemonic : String) (operand : Option String) : Option Byte :=
  (parseLine mnemonic operand).map encodeWord

end Sys2Proof
end

