-- ==== Sys2Proof/Machine/Address.lean ====
section
/-! DEFINITION. Address resolution at creation (40_lifecycle.md R68). -/

namespace Sys2Proof.Machine

/-- R68: `resolve_addr`. -/
def resolveAddr (sel : AddressSelector) : Addr7 :=
  Config.baseAddr ||| (if sel = .alternative true then 1#7 else 0#7)

end Sys2Proof.Machine
end

