-- ==== Sys2Proof/Machine/State.lean ====
section
/-! DEFINITION. The state of the block (10_state.md) and its reset (70_reset_and_hazards.md R109). Plain data. The type
parameter `E` is the transport's error type, which the spec leaves open (00_scope.md R7, D7): no structure of it, no
class on it, is assumed anywhere. `State` is the state with `BusError` for `E`, closed for the host's interface (log 5). -/

namespace Sys2Proof.Machine

/-- R31: a request on the bus port. -/
inductive BusReq where
  | write (addr : Addr7) (bytes : List Byte)
  | writeRead (addr : Addr7) (wbytes : List Byte) (n : Nat)
deriving DecidableEq, Repr

/-- R32: an answer of the bus oracle. -/
inductive BusAnswer (E : Type) where
  | ok
  | data (bytes : List Byte)
  | err (e : E)
deriving DecidableEq, Repr

/-- R13, R70: whether the block holds the bus handle. -/
inductive Life where
  | live
  | released
deriving DecidableEq, Repr

/-- R26: `RESULT`. -/
inductive Result (E : Type) where
  | none
  | ok
  | okLux (count : Nat) (lux : Binary32)
  | okTim (t : IntegrationTime)
  | okCdr (r : CurrentDivisionRatio)
  | okBool (b : Bool)
  | okReleased
  | errTransport (e : E)
  | errNotAvailable
deriving DecidableEq, Repr

/-- R96: the reason of a refused step, kept in the mark `REFUSED`. -/
inductive RefuseReason where
  | illegalCommand
  | afterRelease
deriving DecidableEq, Repr

/-- What the host does next: hand over a command word (R66), or create the block anew with a selector (R109). Log 1. -/
inductive HostInput where
  | word (w : Byte)
  | create (sel : AddressSelector)
deriving DecidableEq, Repr

namespace Generic

/-- The state, over any error type `E`: the six items of R13, then the three fields that hold the block's inputs, which are
the model's own (log 1, log 4). -/
structure State (E : Type) where
  /-- `CFG`, the cached CONFIGURATION byte (R19). -/
  cfg : Byte
  /-- `DEV_ADDR`, fixed at creation (R24). -/
  devAddr : Addr7
  /-- `LIFE` (R13). -/
  life : Life
  /-- `RESULT` of the last command (R26). -/
  result : Result E
  /-- `BUSLOG`, oldest entry first (R34). -/
  busLog : List (BusReq × BusAnswer E)
  /-- `REFUSED` (R96). -/
  refused : Option RefuseReason
  /-- What the host has yet to do, next first (R16, R66). Model's own. -/
  host : List HostInput
  /-- Answers of the bus that are already settled, next first (R32). Model's own. -/
  answers : List (BusAnswer E)
  /-- How many requests were answered: the counter of the free values (R32). Model's own. -/
  draws : Nat
deriving DecidableEq, Repr

end Generic

/-- The state of the machine under the host's interface, which asks for one closed type of plain data (log 5). -/
abbrev State := Generic.State BusError

/-- Why the model stops. -/
inductive Fault where
  /-- Raised by `step` alone, when the host has nothing to hand over: "The block takes no step without a command."
  (R66). Safe: nothing follows from a step that is not taken. Log 2. -/
  | noCommand
deriving DecidableEq, Repr

/-- Refusals of the model. The spec's own refusals (R96) are not these: they are next states that set `REFUSED`
(log 3). -/
inductive Refusal where
  /-- Raised by `exec` for a command without a meaning. Every command has one, so nothing raises it. Safe. -/
  | notModelled (mnemonic : String)
deriving DecidableEq, Repr

/-- R109: `create(sel)`, with no input pending. -/
def Generic.State.create {E : Type} (sel : AddressSelector) : Generic.State E where
  cfg := 0x00#8
  devAddr := resolveAddr sel
  life := .live
  result := .none
  busLog := []
  refused := none
  host := []
  answers := []
  draws := 0
def State.create (sel : AddressSelector) : State := Generic.State.create sel

/-- The machine right after reset (R109, R112). The selector is the strap input; `Default` is a DESIGN CHOICE, log 6. -/
def State.reset : State := State.create .default

end Sys2Proof.Machine
end

