-- ==== Sys2Proof/Machine/Ops.lean ====
section
/-! DEFINITION. The shared operations: the bus port (20_memory.md), the end of a command in a value or an error
(60_exceptions.md R99), refusals (R96), and the step around a command (40_lifecycle.md R66). Each is over any error type
`E` (R7, D7). -/

namespace Sys2Proof.Machine

variable {E : Type}

/-- The outcome of a step or a command. -/
abbrev StepOutcome (E : Type) := Host.Outcome (Generic.State E) Fault Refusal

/-! ## The bus oracle (R32) -/

/-- What the oracle can answer to a `Write`. -/
inductive WriteAnswer (E : Type) where
  | ok
  | err (e : E)
deriving DecidableEq, Repr

/-- What the oracle can answer to a `WriteRead` of `n` bytes: exactly `n` bytes, or an error. -/
inductive ReadAnswer (E : Type) (n : Nat) where
  | data (bytes : Vector Byte n)
  | err (e : E)
deriving DecidableEq, Repr

/-- The same answers as `BUSLOG` records them (R34). -/
def WriteAnswer.toBus : WriteAnswer E → BusAnswer E
  | .ok => .ok
  | .err e => .err e
def ReadAnswer.toBus {n : Nat} : ReadAnswer E n → BusAnswer E
  | .data bytes => .data bytes.toList
  | .err e => .err e

/-- The free draw of a `Write`'s answer (R32). Log 4. -/
def freeWriteAnswer (k : Nat) : WriteAnswer E :=
  match Config.busFailure k with
  | some e => .err e
  | none => .ok

/-- The free draw of `n` bytes, and of a `WriteRead`'s answer (R32). Log 4. -/
def freeBytes (k n : Nat) : Vector Byte n := ⟨((List.range n).map (Config.busByte k)).toArray, by simp⟩
def freeReadAnswer (k n : Nat) : ReadAnswer E n :=
  match Config.busFailure k with
  | some e => .err e
  | none => .data (freeBytes k n)

/-- The oracle's answer to a `Write`: the next settled answer where it answers a `Write`, else a free draw. -/
def Generic.State.writeAnswer (s : Generic.State E) : WriteAnswer E :=
  match s.answers with
  | .ok :: _ => .ok
  | .err e :: _ => .err e
  | _ => freeWriteAnswer s.draws

/-- The oracle's answer to a `WriteRead` of `n` bytes: the next settled answer where it has exactly `n` bytes or is an
error, else a free draw. -/
def Generic.State.readAnswer (s : Generic.State E) (n : Nat) : ReadAnswer E n :=
  match s.answers with
  | .err e :: _ => .err e
  | .data bytes :: _ => if h : bytes.length = n then .data ⟨bytes.toArray, by simp [h]⟩ else freeReadAnswer s.draws n
  | _ => freeReadAnswer s.draws n

/-! ## The bus port (R10, R31, R34) -/

/-- A request and its answer go to `BUSLOG` (R34); the oracle moves on to its next answer. -/
def Generic.State.logged (s : Generic.State E) (request : BusReq) (answer : BusAnswer E) : Generic.State E :=
  { s with
    busLog := s.busLog ++ [(request, answer)]
    answers := s.answers.tail
    draws := s.draws + 1 }

/-- R10: `BusWrite(DEV_ADDR, bytes)`. -/
def busWrite (bytes : List Byte) (s : Generic.State E) : WriteAnswer E × Generic.State E :=
  (s.writeAnswer, s.logged (.write s.devAddr bytes) s.writeAnswer.toBus)

/-- R10: `BusWriteRead(DEV_ADDR, wbytes, n)`. -/
def busWriteRead (wbytes : List Byte) (n : Nat) (s : Generic.State E) : ReadAnswer E n × Generic.State E :=
  (s.readAnswer n, s.logged (.writeRead s.devAddr wbytes n) (s.readAnswer n).toBus)

/-- R10: `MemWrite(reg, 1, v)`. -/
def memWrite (reg v : Byte) (s : Generic.State E) : WriteAnswer E × Generic.State E := busWrite [reg, v] s

/-- R10: `MemRead(reg, n)`. -/
def memRead (reg : Byte) (n : Nat) (s : Generic.State E) : ReadAnswer E n × Generic.State E := busWriteRead [reg] n s

/-! ## The end of a command (R10, R66, R99) -/

/-- The two errors a command can raise (R93). -/
inductive CommandError (E : Type) where
  | transport (e : E)
  | notAvailable
deriving DecidableEq, Repr

/-- The result value that records an error (R93). -/
def CommandError.toResult : CommandError E → Result E
  | .transport e => .errTransport e
  | .notAvailable => .errNotAvailable

/-- `return v` ends the command with the result `v` (R10). -/
def returning (v : Result E) (s : Generic.State E) : Generic.State E := { s with result := v }

/-- Error entry (R99): an error ends the command and sets `RESULT`; nothing is saved, nothing is entered, and there is
no return from it (R100). -/
def raising (x : CommandError E) (s : Generic.State E) : Generic.State E := { s with result := x.toResult }

/-! ## Shared bodies of the commands -/

/-- R74: `write_config(v)`, the only writer of `CFG`. -/
def writeConfig (v : Byte) (s : Generic.State E) : Generic.State E :=
  match memWrite Config.configuration v s with
  | (.ok, t) => returning .ok { t with cfg := v }
  | (.err e, t) => raising (.transport e) t

/-- The common body of the readers (R88 to R91): one `MemRead`, whose bytes become a result. -/
def readRegister (reg : Byte) (n : Nat) (value : Vector Byte n → Result E) (s : Generic.State E) : Generic.State E :=
  match memRead reg n s with
  | (.data bytes, t) => returning (value bytes) t
  | (.err e, t) => raising (.transport e) t

/-! ## The step around a command (R66, R96, R109) -/

/-- R66, R96: `refuse(r)` sets the mark unless it is already set, and changes nothing else. Log 3. -/
def refuse (r : RefuseReason) (s : Generic.State E) : Generic.State E := { s with refused := s.refused.or (some r) }

/-- R66: one step on a command word, in the order of R98. `run` is what a decoded command does. -/
def stepWord (run : Instr → Generic.State E → StepOutcome E) (w : Byte) (s : Generic.State E) : StepOutcome E :=
  match s.life with
  | .released => .next (refuse .afterRelease s)
  | .live =>
    match decodeWord w with
    | .error _ => .next (refuse .illegalCommand s)
    | .ok i => run i s

/-- R109: the host creates a new block. The inputs that are still to come stay as they are (log 1). -/
def recreate (sel : AddressSelector) (s : Generic.State E) : Generic.State E :=
  { Generic.State.create sel with host := s.host, answers := s.answers, draws := s.draws }

/-- One step: what the host does next is taken off its list and carried out; with nothing there, no step is taken
(R66, log 2). -/
def stepHost (run : Instr → Generic.State E → StepOutcome E) (s : Generic.State E) : StepOutcome E :=
  match s.host with
  | [] => .fault .noCommand
  | .word w :: rest => stepWord run w { s with host := rest }
  | .create sel :: rest => .next (recreate sel { s with host := rest })

/-- The host hands over `w` next. -/
def Generic.State.handOver (s : Generic.State E) (w : Byte) : Generic.State E := { s with host := .word w :: s.host }

end Sys2Proof.Machine
end

