-- ==== Sys2Proof/Machine/Flags.lean ====
section
/-! DEFINITION. The block has no status flags and no condition codes (10_state.md R17). The flags it has are the fields of
`CFG` (R19): their masks (30_encoding.md R48), `pack` and `unpack` (41_config_setters.md R73), and the manual-mode guard,
the only condition inside a command (R67, R75). -/

namespace Sys2Proof.Machine

/-- The field masks of R48. -/
def measBit : Byte := 0x80#8
def manualBit : Byte := 0x40#8
def reservedMask : Byte := 0x30#8
def cdrBit : Byte := 0x08#8
def timMask : Byte := 0x07#8

/-- The four fields of a CONFIGURATION byte, decoded. -/
structure Fields where
  meas : MeasurementMode
  cfgm : ConfigurationMode
  cdr : CurrentDivisionRatio
  tim : IntegrationTime
deriving DecidableEq, Repr

/-- R73: `pack`. -/
def pack (f : Fields) : Byte :=
  (encMeas f.meas).zeroExtend 8 <<< 7 ||| (encCfgm f.cfgm).zeroExtend 8 <<< 6 |||
    (encCdr f.cdr).zeroExtend 8 <<< 3 ||| (encTim f.tim).zeroExtend 8

/-- R73: `unpack`. -/
def unpack (b : Byte) : Fields where
  meas := decMeas (b.extractLsb' 7 1)
  cfgm := decCfgm (b.extractLsb' 6 1)
  cdr := decCdr (b.extractLsb' 3 1)
  tim := decTim (b.extractLsb' 0 3)

/-- R75: the test of `guard_manual()`, on the cached byte. -/
def manualClear (c : Byte) : Bool := c &&& manualBit == 0#8

/-- R75: `guard_manual()` before the body of a command. -/
def guardManual {E : Type} (body : Generic.State E → Generic.State E) (s : Generic.State E) : Generic.State E :=
  if manualClear s.cfg then raising .notAvailable s else body s

end Sys2Proof.Machine
end

