-- ==== Sys2Proof/Machine/Float.lean ====
section
/-! DEFINITION. The floating-point operations of 00_scope.md R9: conversion of a natural number, multiplication and
narrowing, each exact in integers and then rounded once, to nearest with ties to even (log 8). -/

namespace Sys2Proof.Machine

/-- A binary interchange format: the exponent's and the fraction's number of bits. -/
structure FloatFormat where
  expBits : Nat
  fracBits : Nat
deriving DecidableEq, Repr

def binary32 : FloatFormat := ⟨8, 23⟩
def binary64 : FloatFormat := ⟨11, 52⟩

namespace FloatFormat

/-- The exponent of the unit of the subnormal numbers: -149 for binary32, -1074 for binary64. -/
def minExp (f : FloatFormat) : Int := 2 - 2 ^ (f.expBits - 1) - f.fracBits

/-- The bits of +infinity, which is also the number of finite non-negative encodings. -/
def infBits (f : FloatFormat) : Nat := (2 ^ f.expBits - 1) * 2 ^ f.fracBits

/-- The bits of a quiet NaN. -/
def nanBits (f : FloatFormat) : Nat := f.infBits + 2 ^ (f.fracBits - 1)

end FloatFormat

/-- `m / 2^k` rounded to the nearest integer, ties to even. -/
def roundShift (m k : Nat) : Nat :=
  let q := m / 2 ^ k
  let r := m % 2 ^ k
  if 2 * r > 2 ^ k ∨ (2 * r = 2 ^ k ∧ q % 2 = 1) then q + 1 else q

/-- The encoding, without its sign, of `m * 2^e` rounded to nearest, ties to even. The result's unit is `2^unit`; the
significand is added to the exponent's place, so that a carry out of the rounding moves to the next exponent, and what
is too large becomes infinity. -/
def roundMagnitude (f : FloatFormat) (m : Nat) (e : Int) : Nat :=
  if m = 0 then 0
  else
    let unit : Int := max (e + Nat.log2 m - f.fracBits) f.minExp
    let significand := if e ≥ unit then m * 2 ^ (e - unit).toNat else roundShift m (unit - e).toNat
    min ((unit - f.minExp).toNat * 2 ^ f.fracBits + significand) f.infBits

/-- The significand and the exponent of a finite encoding without its sign: its value is the first times 2 to the
second. -/
def significandOf (f : FloatFormat) (bits : Nat) : Nat :=
  if bits / 2 ^ f.fracBits = 0 then bits else 2 ^ f.fracBits + bits % 2 ^ f.fracBits
def exponentOf (f : FloatFormat) (bits : Nat) : Int := f.minExp + ((bits / 2 ^ f.fracBits - 1 : Nat) : Int)

/-- The product of two encodings without their signs. An infinity times zero, or a NaN, gives NaN. -/
def mulMagnitude (f : FloatFormat) (a b : Nat) : Nat :=
  if a > f.infBits ∨ b > f.infBits ∨ (a = f.infBits ∧ b = 0) ∨ (a = 0 ∧ b = f.infBits) then f.nanBits
  else if a = f.infBits ∨ b = f.infBits then f.infBits
  else roundMagnitude f (significandOf f a * significandOf f b) (exponentOf f a + exponentOf f b)

/-- R9: `f32(n)` and `f64(n)`. -/
def f32OfNat (n : Nat) : Binary32 := BitVec.ofNat 32 (roundMagnitude binary32 n 0)
def f64OfNat (n : Nat) : Binary64 := BitVec.ofNat 64 (roundMagnitude binary64 n 0)

/-- R9: `mul_f32(a, b)`. The sign is the exclusive or of the signs. -/
def mulF32 (a b : Binary32) : Binary32 :=
  BitVec.ofBool (a.msb ^^ b.msb) ++
    BitVec.ofNat 31 (mulMagnitude binary32 (a.setWidth 31).toNat (b.setWidth 31).toNat)

/-- R9: `mul_f64(a, b)`. -/
def mulF64 (a b : Binary64) : Binary64 :=
  BitVec.ofBool (a.msb ^^ b.msb) ++
    BitVec.ofNat 63 (mulMagnitude binary64 (a.setWidth 63).toNat (b.setWidth 63).toNat)

/-- R9: `round_f32(a)`, the narrowing of binary64 to binary32. -/
def narrowMagnitude (a : Nat) : Nat :=
  if a > binary64.infBits then binary32.nanBits
  else if a = binary64.infBits then binary32.infBits
  else roundMagnitude binary32 (significandOf binary64 a) (exponentOf binary64 a)
def roundF32 (a : Binary64) : Binary32 :=
  BitVec.ofBool a.msb ++ BitVec.ofNat 31 (narrowMagnitude (a.setWidth 63).toNat)

end Sys2Proof.Machine
end

