-- ==== Sys2Proof/Machine/Operands.lean ====
section
/-! DEFINITION. The bytes a setter derives from its operand (41_config_setters.md section 1) and the lux decoder
(42_readers.md section 1). -/

namespace Sys2Proof.Machine

/-- R71: `upd1`. -/
def upd1 (c mask : Byte) (b : BitVec 1) : Byte := if b = 1#1 then c ||| mask else c &&& ~~~mask

/-- R72: `updtim`. -/
def updTim (c : Byte) (k : BitVec 3) : Byte := (c &&& ~~~timMask) ||| k.zeroExtend 8

/-- R58, R82: the exponent `E` and the mantissa `M` of the two lux bytes. -/
def luxExponent (msb : Byte) : Nat := ((msb &&& 0xF0#8) >>> 4).toNat
def luxMantissa (msb lsb : Byte) : Nat := (((msb &&& 0x0F#8) <<< 4) ||| (lsb &&& 0x0F#8)).toNat

/-- R82, R83: the exact count. -/
def luxCount (msb lsb : Byte) : Nat := (1 <<< luxExponent msb) * luxMantissa msb lsb

/-- R86: `lux_scale` under either reading of `LUX_ARITH`. -/
def luxScaleUnder (arith : LuxArith) (count : Nat) : Binary32 :=
  match arith with
  | .f32 => mulF32 (f32OfNat count) Config.luxC
  | .f64 => roundF32 (mulF64 (f64OfNat count) Config.luxC64)

/-- R86: `lux_scale`, under the block's `LUX_ARITH` (log 7). -/
def luxScale (count : Nat) : Binary32 := luxScaleUnder Config.luxArith count

/-- R82: `lux_decode`, `msb` first. -/
def luxDecode (msb lsb : Byte) : Nat × Binary32 := (luxCount msb lsb, luxScale (luxCount msb lsb))

end Sys2Proof.Machine
end

