-- ==== Sys2Proof/Machine/Lifecycle.lean ====
section
/-! DEFINITION. The meaning of RELEASE (40_lifecycle.md section 3). -/

namespace Sys2Proof.Machine

variable {E : Type}

/-- R70: RELEASE. It issues no request. -/
def execRelease (s : Generic.State E) : StepOutcome E := .next (returning .okReleased { s with life := .released })

end Sys2Proof.Machine
end

