-- ==== Sys2Proof/Machine/Readers.lean ====
section
/-! DEFINITION. The meanings of the four readers (42_readers.md section 2). -/

namespace Sys2Proof.Machine

variable {E : Type}

/-- R88: the result of the two lux bytes, `msb` first (R35). -/
def luxResult (bytes : Vector Byte 2) : Result E :=
  .okLux (luxDecode bytes[0] bytes[1]).1 (luxDecode bytes[0] bytes[1]).2

/-- R89: the result of a CONFIGURATION byte for RDTIM: bits 2:0. -/
def timResult (bytes : Vector Byte 1) : Result E := .okTim (decTim (bytes[0].extractLsb' 0 3))

/-- R90: the result of a CONFIGURATION byte for RDCDR: bit 3. -/
def cdrResult (bytes : Vector Byte 1) : Result E := .okCdr (decCdr (bytes[0].extractLsb' 3 1))

/-- R91: the result of an INT_STATUS byte. -/
def intResult (bytes : Vector Byte 1) : Result E := .okBool (decInt bytes[0])

/-- R88: RDLUX. -/
def execRdlux (s : Generic.State E) : StepOutcome E := .next (readRegister Config.luxHigh 2 luxResult s)

/-- R89: RDTIM. -/
def execRdtim (s : Generic.State E) : StepOutcome E := .next (readRegister Config.configuration 1 timResult s)

/-- R90: RDCDR. -/
def execRdcdr (s : Generic.State E) : StepOutcome E := .next (readRegister Config.configuration 1 cdrResult s)

/-- R91: RDINT. The clearing of the device's latch is the device's (R39). -/
def execRdint (s : Generic.State E) : StepOutcome E := .next (readRegister Config.intStatus 1 intResult s)

end Sys2Proof.Machine
end

