-- ==== Sys2Proof/Machine/Setters.lean ====
section
/-! DEFINITION. The meanings of the five setters (41_config_setters.md section 4). -/

namespace Sys2Proof.Machine

variable {E : Type}

/-- R76: SETMEAS. -/
def execSetmeas (m : MeasurementMode) (s : Generic.State E) : StepOutcome E :=
  .next (writeConfig (upd1 s.cfg measBit (encMeas m)) s)

/-- R77: SETCFGM. -/
def execSetcfgm (c : ConfigurationMode) (s : Generic.State E) : StepOutcome E :=
  .next (writeConfig (upd1 s.cfg manualBit (encCfgm c)) s)

/-- R78: SETCDR. -/
def execSetcdr (r : CurrentDivisionRatio) (s : Generic.State E) : StepOutcome E :=
  .next (guardManual (writeConfig (upd1 s.cfg cdrBit (encCdr r))) s)

/-- R79: SETTIM. -/
def execSettim (t : IntegrationTime) (s : Generic.State E) : StepOutcome E :=
  .next (guardManual (writeConfig (updTim s.cfg (encTim t))) s)

/-- R80: what SETINTEN leaves. It neither reads nor writes `CFG`. -/
def writeIntEnable (b : Bool) (s : Generic.State E) : Generic.State E :=
  match memWrite Config.intEnable (encInten b) s with
  | (.ok, t) => returning .ok t
  | (.err e, t) => raising (.transport e) t

/-- R80: SETINTEN. -/
def execSetinten (b : Bool) (s : Generic.State E) : StepOutcome E := .next (writeIntEnable b s)

end Sys2Proof.Machine
end

