-- ==== Sys2Proof/Machine/Dispatch.lean ====
section
/-! DEFINITION. One arm per command (40_lifecycle.md R66, `exec(c)`). -/

namespace Sys2Proof.Machine

def exec (i : Instr) (s : State) : Host.Outcome State Fault Refusal :=
  match i with
  | .setmeas m => Sys2Proof.Machine.execSetmeas m s
  | .setcfgm c => Sys2Proof.Machine.execSetcfgm c s
  | .setcdr r => Sys2Proof.Machine.execSetcdr r s
  | .settim t => Sys2Proof.Machine.execSettim t s
  | .setinten b => Sys2Proof.Machine.execSetinten b s
  | .rdlux => Sys2Proof.Machine.execRdlux s
  | .rdtim => Sys2Proof.Machine.execRdtim s
  | .rdcdr => Sys2Proof.Machine.execRdcdr s
  | .rdint => Sys2Proof.Machine.execRdint s
  | .release => Sys2Proof.Machine.execRelease s

end Sys2Proof.Machine
end

