-- ==== Sys2Proof/Machine/Step.lean ====
section
/-! DEFINITION. One step of the block (40_lifecycle.md R66), and the placing of a command word where the next step takes
it. -/

namespace Sys2Proof.Machine

/-- One step: the next thing the host does, a command word (R66) or a creation (R109). -/
def step (s : State) : Host.Outcome State Fault Refusal := stepHost exec s

/-- The command word `w` is what the host hands over next. A command is one byte (R60). Log 12. -/
def State.withFetchWord (s : State) (nbits w : Nat) : State := s.handOver (BitVec.ofNat 8 (w % 2 ^ nbits))

end Sys2Proof.Machine
end

