-- ==== Sys2Proof/Machine/Generic.lean ====
section
/-! DEFINITION. The machine over any error type `E`, of which nothing is assumed (00_scope.md R7, D7): the command `exec(c)`
and the step of 40_lifecycle.md R66. The `exec` and `step` of the host's interface are these two with `BusError` for `E`,
which the statement ErrorTypeIsParameter says (log 5). -/

namespace Sys2Proof.Machine.Generic

variable {E : Type}

/-- R66: `exec(c)`. -/
def exec (i : Instr) (s : State E) : StepOutcome E :=
  match i with
  | .setmeas m => execSetmeas m s
  | .setcfgm c => execSetcfgm c s
  | .setcdr r => execSetcdr r s
  | .settim t => execSettim t s
  | .setinten b => execSetinten b s
  | .rdlux => execRdlux s
  | .rdtim => execRdtim s
  | .rdcdr => execRdcdr s
  | .rdint => execRdint s
  | .release => execRelease s

/-- R66, R109: one step. -/
def step (s : State E) : StepOutcome E := stepHost exec s

end Sys2Proof.Machine.Generic
end

