-- ==== Sys2Proof/Safety.lean ====
section
/-! DEFINITION. The terms the statements use: what a run keeps (`BlockInv`), the shape of the bus traffic (20_memory.md R36),
what one configuration write leaves (R74), and how inputs are placed for a run. -/

namespace Sys2Proof.Machine

variable {E : Type}

/-! ## Bus traffic -/

/-- R36: the requests that exist, all of them to `addr`. A configuration write carries no reserved bit (R21). -/
def requestLegal (addr : Addr7) : BusReq → Bool
  | .write a [reg, v] =>
    a == addr && ((reg == 0x02#8 && v &&& 0x30#8 == 0#8) || (reg == 0x01#8 && (v == 0x00#8 || v == 0x01#8)))
  | .writeRead a [reg] n => a == addr && ((reg == 0x03#8 && n == 2) || ((reg == 0x02#8 || reg == 0x00#8) && n == 1))
  | _ => false

/-- R32: the answers that a request can have. -/
def answerFits : BusReq → BusAnswer E → Bool
  | _, .err _ => true
  | .write _ _, .ok => true
  | .writeRead _ _ n, .data bytes => bytes.length == n
  | _, _ => false

/-- R23: what one entry of a log does to the last byte written to CONFIGURATION with success. -/
def configAfter (c : Byte) : BusReq × BusAnswer E → Byte
  | (.write _ [reg, v], .ok) => if reg = 0x02#8 then v else c
  | _ => c

/-- R23: the last byte a log shows as written to CONFIGURATION with success; 0x00 where there is none (R110). -/
def lastConfig (log : List (BusReq × BusAnswer E)) : Byte := log.foldl configAfter 0x00#8

/-! ## What every step keeps -/

/-- The invariant of the block. -/
structure BlockInv (s : Generic.State E) : Prop where
  /-- R21: the reserved bits of `CFG` are 0. -/
  reservedClear : s.cfg &&& 0x30#8 = 0#8
  /-- R69: the two device addresses. -/
  addressKnown : s.devAddr = 0x4A#7 ∨ s.devAddr = 0x4B#7
  /-- R23: `CFG` is the last byte written to CONFIGURATION with success. -/
  cfgIsLastWritten : lastConfig s.busLog = s.cfg
  /-- R24, R36: every request of the log is one of the block's, to `DEV_ADDR`, and its answer fits it (R32). -/
  logLegal : ∀ entry ∈ s.busLog, requestLegal s.devAddr entry.1 ∧ answerFits entry.1 entry.2
  /-- R70: the block is released exactly when the last command was RELEASE. -/
  releasedResult : s.life = .released ↔ s.result = .okReleased
  /-- R96: the mark `AfterRelease` is set in a released block only. -/
  afterReleaseMark : s.refused = some .afterRelease → s.life = .released
  /-- R13: with no command run, no request was issued. -/
  freshLogEmpty : s.result = .none → s.busLog = []

/-- R96: the premise "no step refused" of a claim about a command sequence. -/
def noStepRefused (s : Generic.State E) : Bool := s.refused == none

/-! ## Results of one command -/

/-- What no setter and no reader changes (R81, R92): everything but `CFG`, `RESULT`, `BUSLOG` and the oracle's place. -/
def BlockKept (s t : Generic.State E) : Prop :=
  t.devAddr = s.devAddr ∧ t.life = s.life ∧ t.refused = s.refused ∧ t.host = s.host

/-- R34: the request `q` was issued once, answered with `a`, and nothing else was issued. -/
def OneRequest (s t : Generic.State E) (q : BusReq) (a : BusAnswer E) : Prop :=
  t.busLog = s.busLog ++ [(q, a)] ∧ t.answers = s.answers.tail ∧ t.draws = s.draws + 1

/-- R74: `t` is `s` after the configuration write of `v`. -/
def ConfigWritten (s t : Generic.State E) (v : Byte) : Prop :=
  OneRequest s t (.write s.devAddr [0x02#8, v]) s.writeAnswer.toBus ∧
  BlockKept s t ∧
  (s.writeAnswer = .ok → t.cfg = v ∧ t.result = .ok) ∧
  (∀ e, s.writeAnswer = .err e → t.cfg = s.cfg ∧ t.result = .errTransport e)

/-- `s` after a reader that reads `n` bytes from `reg` and ends with the result `r` (R92). -/
def afterRead (s : Generic.State E) (reg : Byte) (n : Nat) (r : Result E) : Generic.State E :=
  { s with
    result := r
    busLog := s.busLog ++ [(.writeRead s.devAddr [reg] n, (s.readAnswer n).toBus)]
    answers := s.answers.tail
    draws := s.draws + 1 }

/-- The two guarded commands (R75). -/
def guarded : Instr → Bool
  | .setcdr _ => true
  | .settim _ => true
  | _ => false

/-- Some commands take `s` to `t`, and none of them is a SETCFGM Manual that succeeds (R77). -/
inductive RunWithoutManual : State → State → Prop
  | none (s : State) : RunWithoutManual s s
  | command (i : Instr) (s t u : State) (runs : exec i s = .next t)
      (noManual : ¬ (i = .setcfgm .manual ∧ s.writeAnswer = .ok)) (rest : RunWithoutManual t u) : RunWithoutManual s u

/-! ## Renaming of error values (D7) -/

/-- A result, an answer and a state with every error value `e` of one type in it replaced by the value `f e` of
another. -/
def Result.mapErrors {F : Type} (f : E → F) : Result E → Result F
  | .none => .none
  | .ok => .ok
  | .okLux count lux => .okLux count lux
  | .okTim t => .okTim t
  | .okCdr r => .okCdr r
  | .okBool b => .okBool b
  | .okReleased => .okReleased
  | .errTransport e => .errTransport (f e)
  | .errNotAvailable => .errNotAvailable
def BusAnswer.mapErrors {F : Type} (f : E → F) : BusAnswer E → BusAnswer F
  | .ok => .ok
  | .data bytes => .data bytes
  | .err e => .err (f e)
def WriteAnswer.mapErrors {F : Type} (f : E → F) : WriteAnswer E → WriteAnswer F
  | .ok => .ok
  | .err e => .err (f e)
def ReadAnswer.mapErrors {F : Type} {n : Nat} (f : E → F) : ReadAnswer E n → ReadAnswer F n
  | .data bytes => .data bytes
  | .err e => .err (f e)
def Generic.State.mapErrors {F : Type} (f : E → F) (s : Generic.State E) : Generic.State F :=
  { cfg := s.cfg
    devAddr := s.devAddr
    life := s.life
    result := s.result.mapErrors f
    busLog := s.busLog.map fun entry => (entry.1, entry.2.mapErrors f)
    refused := s.refused
    host := s.host
    answers := s.answers.map (BusAnswer.mapErrors f)
    draws := s.draws }

/-- The oracle answers the request that command `i` makes in the renamed state as it does in `s`, but for the error value.
RELEASE makes none. -/
def answerRenamed {F : Type} (f : E → F) (s : Generic.State E) : Instr → Prop
  | .setmeas _ | .setcfgm _ | .setcdr _ | .settim _ | .setinten _ =>
    (s.mapErrors f).writeAnswer = s.writeAnswer.mapErrors f
  | .rdlux => (s.mapErrors f).readAnswer 2 = (s.readAnswer 2).mapErrors f
  | .rdtim | .rdcdr | .rdint => (s.mapErrors f).readAnswer 1 = (s.readAnswer 1).mapErrors f
  | .release => True

/-! ## Inputs of a run -/

/-- The host will hand over `words` in order, and the bus's next answers are settled as `answers`. -/
def Generic.State.withInputs (s : Generic.State E) (words : List Byte) (answers : List (BusAnswer E)) : Generic.State E :=
  { s with host := words.map .word, answers := answers }

/-- Every input still to come is a command word: the block is not created anew. -/
def wordsOnly (s : Generic.State E) : Prop := ∀ x ∈ s.host, ∃ w, x = .word w

end Sys2Proof.Machine
end

