-- ==== Sys2Proof/Certificates/Slice0/Obligations.lean ====
section
/-! DEFINITION. The statements for the provers, from the numbered rules of spec/. A statement that rests on a choice of the
model (the host's inputs as a list, log 1; the stop without a command, log 2; the settled answers, log 4) says so. -/

open Sys2Proof Sys2Proof.Machine

/-! ## Encodings -/

/-- 95_test_vectors.md V1, every legal word and a sample of each illegal class. -/
def Obligations.DecodesListedWords : Prop :=
  (∀ p ∈ [(0x10#8, Instr.setmeas .onceEvery800ms), (0x11#8, .setmeas .continuous), (0x20#8, .setcfgm .automatic),
      (0x21#8, .setcfgm .manual), (0x30#8, .setcdr .one), (0x31#8, .setcdr .oneEighth), (0x40#8, .settim .t800ms),
      (0x41#8, .settim .t400ms), (0x42#8, .settim .t200ms), (0x43#8, .settim .t100ms), (0x44#8, .settim .t50ms),
      (0x45#8, .settim .t25ms), (0x46#8, .settim .t12_5ms), (0x47#8, .settim .t6_25ms)], decodeWord p.1 = .ok p.2) ∧
  (∀ p ∈ [(0x50#8, Instr.setinten false), (0x51#8, .setinten true), (0x60#8, .rdlux), (0x70#8, .rdtim),
      (0x80#8, .rdcdr), (0x90#8, .rdint), (0xA0#8, .release)], decodeWord p.1 = .ok p.2) ∧
  (∀ p ∈ [(0x00#8, DecodeError.opcodeUnassigned), (0x0F#8, .opcodeUnassigned), (0xB0#8, .opcodeUnassigned),
      (0xFF#8, .opcodeUnassigned), (0x12#8, .f1OperandReserved), (0x1E#8, .f1OperandReserved),
      (0x58#8, .f1OperandReserved), (0x48#8, .f3OperandReserved), (0x4F#8, .f3OperandReserved),
      (0x61#8, .f0OperandNonZero), (0x7F#8, .f0OperandNonZero), (0xA8#8, .f0OperandNonZero)],
    decodeWord p.1 = .error p.2)

/-- Every command, with every value of its operand, decodes from its own word, also through the table's numbering. -/
def Obligations.DecodeOfEncode : Prop :=
  ∀ i : Instr, i.wellFormed = true →
    decodeWord (encodeWord i) = .ok i ∧ decodeTableWord 8 (encodeWord i).toNat = some i

/-- Every word that decodes is the encoding of what it decodes to: no two words share a command. -/
def Obligations.EncodeOfDecode : Prop :=
  ∀ (w : Byte) (i : Instr), decodeWord w = .ok i → encodeWord i = w

/-- R63 (and the patterns of R61): the decoder, pattern by pattern; all other words are illegal; 21 words decode. -/
def Obligations.DecodeFollowsPatterns : Prop :=
  (∀ v : BitVec 1,
    decodeWord (0b0001000#7 ++ v) = .ok (.setmeas (if v = 1#1 then .continuous else .onceEvery800ms)) ∧
    decodeWord (0b0010000#7 ++ v) = .ok (.setcfgm (if v = 1#1 then .manual else .automatic)) ∧
    decodeWord (0b0011000#7 ++ v) = .ok (.setcdr (if v = 1#1 then .oneEighth else .one)) ∧
    decodeWord (0b0101000#7 ++ v) = .ok (.setinten (v == 1#1))) ∧
  (∀ t : BitVec 3, decodeWord (0b01000#5 ++ t) = .ok (.settim (decTim t))) ∧
  decodeWord 0x60#8 = .ok .rdlux ∧ decodeWord 0x70#8 = .ok .rdtim ∧ decodeWord 0x80#8 = .ok .rdcdr ∧
  decodeWord 0x90#8 = .ok .rdint ∧ decodeWord 0xA0#8 = .ok .release ∧
  (∀ (w : Byte) (i : Instr), decodeWord w = .ok i →
    (∃ v : BitVec 1, w = 0b0001000#7 ++ v ∨ w = 0b0010000#7 ++ v ∨ w = 0b0011000#7 ++ v ∨ w = 0b0101000#7 ++ v) ∨
    (∃ t : BitVec 3, w = 0b01000#5 ++ t) ∨ w ∈ [0x60#8, 0x70#8, 0x80#8, 0x90#8, 0xA0#8]) ∧
  ((List.range 256).filter (fun n => (decodeTableWord 8 n).isSome)).length = 21

/-- R62: a word decodes exactly when a row of the opcode map accepts it, to the command of that row's mnemonic, and no
two rows accept the same word. -/
def Obligations.DecodeAgreesWithOpcodeMap : Prop :=
  (∀ (w : Byte), (∃ i, decodeWord w = .ok i) ↔ ∃ r ∈ opcodeMap, r.accepts w = true) ∧
  (∀ (w : Byte) (i : Instr) (r : OpRow), decodeWord w = .ok i → r ∈ opcodeMap → r.accepts w = true →
    r.mnemonic = mnemonicOf i) ∧
  (∀ (w : Byte) (r r' : OpRow), r ∈ opcodeMap → r' ∈ opcodeMap → r.accepts w = true → r'.accepts w = true → r = r')

/-- R64: the four classes of illegal words, with the number of words in each, and what a step on such a word leaves (the
host's list is the model's, log 1). -/
def Obligations.IllegalWordsByClass : Prop :=
  (∀ w : Byte, decodeWord w = .error .opcodeUnassigned ↔ w.toNat / 16 = 0 ∨ 0xB ≤ w.toNat / 16) ∧
  (∀ w : Byte, decodeWord w = .error .f1OperandReserved ↔
    w.toNat / 16 ∈ [0x1, 0x2, 0x3, 0x5] ∧ w.toNat % 16 ≠ 0 ∧ w.toNat % 16 ≠ 1) ∧
  (∀ w : Byte, decodeWord w = .error .f3OperandReserved ↔ w.toNat / 16 = 0x4 ∧ 8 ≤ w.toNat % 16) ∧
  (∀ w : Byte, decodeWord w = .error .f0OperandNonZero ↔
    w.toNat / 16 ∈ [0x6, 0x7, 0x8, 0x9, 0xA] ∧ w.toNat % 16 ≠ 0) ∧
  (∀ p ∈ [(DecodeError.opcodeUnassigned, 96), (.f1OperandReserved, 56), (.f3OperandReserved, 8), (.f0OperandNonZero, 75)],
    ((List.range 256).filter (fun n => decodeWord (BitVec.ofNat 8 n) = .error p.1)).length = p.2) ∧
  (∀ (s : State) (w : Byte) (rest : List HostInput) (e : DecodeError),
    s.host = .word w :: rest → s.life = .live → decodeWord w = .error e →
    ∃ mark, step s = .next { s with host := rest, refused := some mark } ∧
      (s.refused = none → mark = .illegalCommand) ∧ (∀ r, s.refused = some r → mark = r))

/-- R53, R54, R55, R56: the codes of the operand values go both ways; the interrupt bytes. -/
def Obligations.FieldCodesRoundTrip : Prop :=
  (∀ t, decTim (encTim t) = t) ∧ (∀ k, encTim (decTim k) = k) ∧ (∀ r, decCdr (encCdr r) = r) ∧
  (∀ (k : BitVec 3) (t : IntegrationTime), encTim t = k → t = decTim k) ∧
  encInten true = 0x01#8 ∧ encInten false = 0x00#8 ∧ (∀ s : Byte, decInt s = true ↔ s ≠ 0x00#8)

/-- R65: each command has one line, which assembles to its word, and no other line assembles. -/
def Obligations.AssemblerLines : Prop :=
  (∀ i : Instr, assembleLine (mnemonicOf i) (operandNameOf i) = some (encodeWord i)) ∧
  (∀ (mnemonic : String) (operand : Option String) (w : Byte), assembleLine mnemonic operand = some w →
    ∃ i : Instr, mnemonic = mnemonicOf i ∧ operand = operandNameOf i ∧ w = encodeWord i)

/-! ## Creation and addressing -/

/-- R68, R69: the address of each selector, which is the base with bit 0 from the pin. -/
def Obligations.ResolveAddrTable : Prop :=
  resolveAddr .default = 0b1001010#7 ∧ resolveAddr (.alternative false) = 0b1001010#7 ∧
  resolveAddr (.alternative true) = 0b1001011#7 ∧
  (∀ sel, resolveAddr sel = 0b1001010#7 ||| (if sel = .alternative true then 1#7 else 0#7))

/-- R109, R110: what creation leaves, for every selector. The fields of `CFG` are all at their zero values. -/
def Obligations.CreationSetsBlock : Prop :=
  ∀ sel, (State.create sel).life = .live ∧ (State.create sel).devAddr = resolveAddr sel ∧
    (State.create sel).cfg = 0x00#8 ∧ (State.create sel).result = .none ∧ (State.create sel).busLog = [] ∧
    (State.create sel).refused = none ∧
    unpack (State.create sel).cfg = ⟨.onceEvery800ms, .automatic, .one, .t800ms⟩

/-- R109: a creation between commands gives the block of `create(sel)`, whatever it was before, a released block too. That
the inputs still to come are kept is the model's choice (log 1). -/
def Obligations.CreationStep : Prop :=
  ∀ (s : State) (sel : AddressSelector) (rest : List HostInput), s.host = .create sel :: rest →
    step s = .next { State.create sel with host := rest, answers := s.answers, draws := s.draws }

/-! ## The command step -/

/-- A step on a word that decodes, in a live block, is exec of the command with the word taken off the host's list. -/
def Obligations.StepRunsDecodedCommand : Prop :=
  ∀ (s : State) (w : Byte) (rest : List HostInput) (i : Instr),
    s.host = .word w :: rest → s.life = .live → i.wellFormed = true → decodeWord w = .ok i →
    step s = exec i { s with host := rest }

/-- A word placed by withFetchWord is the next thing a live block runs, and nothing else of the state changes (log 12). -/
def Obligations.PlacedWordRunsNext : Prop :=
  ∀ (s : State) (w : Nat) (i : Instr), s.life = .live → decodeTableWord 8 w = some i →
    step (s.withFetchWord 8 w) = exec i s

/-- R96, with the order of R98: a released block refuses every word with `AfterRelease`, a live one each illegal word with
`IllegalCommand`; the mark keeps the first reason, and no command changes it. The host's list is the model's (log 1). -/
def Obligations.RefusedStepOnlyMarks : Prop :=
  (∀ (s : State) (w : Byte) (rest : List HostInput), s.host = .word w :: rest → s.life = .released →
    step s = .next { s with
      host := rest
      refused := match s.refused with
        | none => some .afterRelease
        | some r => some r }) ∧
  (∀ (s : State) (w : Byte) (rest : List HostInput) (e : DecodeError),
    s.host = .word w :: rest → s.life = .live → decodeWord w = .error e →
    step s = .next { s with
      host := rest
      refused := match s.refused with
        | none => some .illegalCommand
        | some r => some r }) ∧
  (∀ (i : Instr) (s t : State), exec i s = .next t → t.refused = s.refused)

/-- R66, "The block takes no step without a command": the model stops so, and it stops in no other case (log 2). -/
def Obligations.StopsOnlyWithoutInput : Prop :=
  (∀ s : State, s.host = [] → step s = .fault .noCommand) ∧
  (∀ s : State, s.host ≠ [] → ∃ t, step s = .next t)

/-- Every command completes with a result, and only RELEASE changes whether the block is live. It says so for live states
(R103, "while `LIFE = Live`") and, since exec does not look at LIFE (log 16), for released ones too. It ASSUMES A TRANSPORT
THAT RETURNS: R33, decision D8, log 11. -/
def Obligations.EveryCommandCompletes : Prop :=
  ∀ (i : Instr) (s : State), ∃ t, exec i s = .next t ∧ t.result ≠ .none ∧
    t.life = (if i = .release then .released else s.life)

/-- R70: after RELEASE, any number of further words changes nothing but the mark. -/
def Obligations.ReleasedForever : Prop :=
  ∀ (k : Nat) (s : State), s.life = .released → wordsOnly s → k ≤ s.host.length →
    core.run k s = .next { s with
      host := s.host.drop k
      refused := if k = 0 then s.refused else s.refused.or (some .afterRelease) }

/-! ## Packing -/

/-- R48, R71, R72: the masks partition the byte; `upd1` and `updtim` change the bits they name and pass the others. -/
def Obligations.BitUpdates : Prop :=
  measBit = 0x80#8 ∧ manualBit = 0x40#8 ∧ reservedMask = 0x30#8 ∧ cdrBit = 0x08#8 ∧ timMask = 0x07#8 ∧
  (∀ j < 8, ([measBit, manualBit, reservedMask, cdrBit, timMask].filter (fun m => m.getLsbD j)).length = 1) ∧
  (∀ (c mask : Byte) (b : BitVec 1) (j : Nat),
    (upd1 c mask b).getLsbD j = if mask.getLsbD j then (b == 1#1) else c.getLsbD j) ∧
  (∀ (c : Byte) (k : BitVec 3) (j : Nat),
    (updTim c k).getLsbD j = if j < 3 then k.getLsbD j else c.getLsbD j)

/-- R73: `pack` and `unpack` are inverse on the bytes with clear reserved bits, and every `CFG` of the invariant is
packed. -/
def Obligations.PackUnpack : Prop :=
  (∀ f : Fields, pack f =
    BitVec.ofNat 8 ((encMeas f.meas).toNat * 128 + (encCfgm f.cfgm).toNat * 64 + (encCdr f.cdr).toNat * 8 +
      (encTim f.tim).toNat)) ∧
  (∀ f g : Fields, pack f = pack g → f = g) ∧
  (∀ f : Fields, unpack (pack f) = f) ∧
  (∀ b : Byte, b &&& 0x30#8 = 0#8 → pack (unpack b) = b) ∧
  (∀ s : State, BlockInv s → s.cfg = pack (unpack s.cfg))

/-- What each successful setter leaves in `CFG`, in the decoded fields: its own field, and no other. -/
def Obligations.SetterSetsOneField : Prop :=
  ∀ s : State, s.writeAnswer = .ok →
    (∀ m, ∃ t, exec (.setmeas m) s = .next t ∧ unpack t.cfg = { unpack s.cfg with meas := m }) ∧
    (∀ c, ∃ t, exec (.setcfgm c) s = .next t ∧ unpack t.cfg = { unpack s.cfg with cfgm := c }) ∧
    ((unpack s.cfg).cfgm = .manual →
      (∀ r, ∃ t, exec (.setcdr r) s = .next t ∧ unpack t.cfg = { unpack s.cfg with cdr := r }) ∧
      (∀ k, ∃ t, exec (.settim k) s = .next t ∧ unpack t.cfg = { unpack s.cfg with tim := k }))

/-! ## The setters -/

/-- R74: only a successful configuration write changes `CFG`, and it becomes exactly the byte written; after a failed one
`CFG` is unchanged. -/
def Obligations.OnlyConfigWriteChangesCfg : Prop :=
  ∀ (i : Instr) (s t : State), exec i s = .next t →
    (t.cfg ≠ s.cfg → t.busLog = s.busLog ++ [(.write s.devAddr [0x02#8, t.cfg], .ok)] ∧ t.result = .ok) ∧
    (∀ a v, t.busLog = s.busLog ++ [(.write a [0x02#8, v], .ok)] → t.cfg = v ∧ t.result = .ok) ∧
    (∀ a v e, t.busLog = s.busLog ++ [(.write a [0x02#8, v], .err e)] → t.cfg = s.cfg ∧ t.result = .errTransport e)

/-- R75: SETCDR and SETTIM with bit 6 of `CFG` clear end with `ErrNotAvailable` and change nothing else, without a
request; no other command in no other state ends so. -/
def Obligations.ManualGuard : Prop :=
  (∀ (i : Instr) (s : State), guarded i = true → s.cfg.getLsbD 6 = false →
    exec i s = .next { s with result := .errNotAvailable }) ∧
  (∀ (i : Instr) (s t : State), exec i s = .next t →
    (t.result = .errNotAvailable ↔ guarded i = true ∧ s.cfg.getLsbD 6 = false))

/-- R76: SETMEAS writes `CFG` with bit 7 replaced. -/
def Obligations.SetmeasWritesBit7 : Prop :=
  ∀ (m : MeasurementMode) (s : State),
    encodeWord (.setmeas m) = 0x10#8 ||| (if m = .continuous then 1#8 else 0#8) ∧
    ∃ t v, exec (.setmeas m) s = .next t ∧ ConfigWritten s t v ∧
      v.getLsbD 7 = (m == .continuous) ∧ ∀ j < 7, v.getLsbD j = s.cfg.getLsbD j

/-- R77: SETCFGM writes `CFG` with bit 6 replaced; a clear bit 6 is set by a successful SETCFGM Manual only; and after a
successful SETCFGM Automatic, SETCDR and SETTIM end in `ErrNotAvailable`, without a request, through any commands until a
SETCFGM Manual succeeds. -/
def Obligations.SetcfgmWritesBit6 : Prop :=
  (∀ (c : ConfigurationMode) (s : State),
    encodeWord (.setcfgm c) = 0x20#8 ||| (if c = .manual then 1#8 else 0#8) ∧
    ∃ t v, exec (.setcfgm c) s = .next t ∧ ConfigWritten s t v ∧
      v.getLsbD 6 = (c == .manual) ∧ ∀ j, j ≠ 6 → v.getLsbD j = s.cfg.getLsbD j) ∧
  (∀ (i : Instr) (s t : State), exec i s = .next t → s.cfg.getLsbD 6 = false →
    (t.cfg.getLsbD 6 = true ↔ i = .setcfgm .manual ∧ s.writeAnswer = .ok)) ∧
  (∀ (s t u : State) (i : Instr), s.writeAnswer = .ok → exec (.setcfgm .automatic) s = .next t → RunWithoutManual t u →
    guarded i = true → exec i u = .next { u with result := .errNotAvailable })

/-- R78: SETCDR, guarded, writes `CFG` with bit 3 replaced; the guard is bit 6 of the last byte written with success. -/
def Obligations.SetcdrWritesBit3 : Prop :=
  ∀ (r : CurrentDivisionRatio) (s : State),
    encodeWord (.setcdr r) = 0x30#8 ||| (if r = .oneEighth then 1#8 else 0#8) ∧
    (s.cfg.getLsbD 6 = false → exec (.setcdr r) s = .next { s with result := .errNotAvailable }) ∧
    (s.cfg.getLsbD 6 = true →
      ∃ t v, exec (.setcdr r) s = .next t ∧ ConfigWritten s t v ∧
        v.getLsbD 3 = (r == .oneEighth) ∧ ∀ j, j ≠ 3 → v.getLsbD j = s.cfg.getLsbD j) ∧
    (BlockInv s → (exec (.setcdr r) s = .next { s with result := .errNotAvailable } ↔
      (lastConfig s.busLog).getLsbD 6 = false))

/-- R79: SETTIM, guarded, writes `CFG` with bits 2:0 replaced by the code. -/
def Obligations.SettimWritesBits2To0 : Prop :=
  ∀ (t : IntegrationTime) (s : State),
    encodeWord (.settim t) = 0x40#8 ||| (encTim t).zeroExtend 8 ∧
    (s.cfg.getLsbD 6 = false → exec (.settim t) s = .next { s with result := .errNotAvailable }) ∧
    (s.cfg.getLsbD 6 = true →
      ∃ u v, exec (.settim t) s = .next u ∧ ConfigWritten s u v ∧
        v.toNat % 8 = (encTim t).toNat ∧ v.toNat / 8 = s.cfg.toNat / 8)

/-- R80: SETINTEN writes 1 or 0 to INT_ENABLE, and neither reads nor writes `CFG`. -/
def Obligations.SetintenWritesIntEnable : Prop :=
  ∀ (b : Bool) (s : State),
    encodeWord (.setinten b) = 0x50#8 ||| (if b then 1#8 else 0#8) ∧
    ∃ r, (∀ c : Byte, exec (.setinten b) { s with cfg := c } = .next { s with
        cfg := c
        result := r
        busLog := s.busLog ++ [(.write s.devAddr [0x01#8, if b then 0x01#8 else 0x00#8], s.writeAnswer.toBus)]
        answers := s.answers.tail
        draws := s.draws + 1 }) ∧
      (s.writeAnswer = .ok → r = .ok) ∧ (∀ e, s.writeAnswer = .err e → r = .errTransport e)

/-- R81: the frame of the five setters. The oracle's place moves with a request only. -/
def Obligations.SettersFrame : Prop :=
  ∀ (i : Instr) (s : State), i ∉ [Instr.rdlux, .rdtim, .rdcdr, .rdint, .release] →
    ∃ t, exec i s = .next t ∧ BlockKept s t ∧
      ((t = { s with result := t.result }) ∨
       (∃ bytes, bytes.length = 2 ∧ OneRequest s t (.write s.devAddr bytes) s.writeAnswer.toBus ∧
         (t.cfg = s.cfg ∨ bytes = [0x02#8, t.cfg])))

/-! ## The readers -/

/-- R82, R83, R84, R85: the exact count of two lux bytes, for every exponent and mantissa, and its bounds; the low byte's
bits 7:4 are not read; the conversion of a count to binary32 is exact. -/
def Obligations.LuxCountExact : Prop :=
  (∀ msb lsb : Byte,
    luxDecode msb lsb =
      (2 ^ (msb.toNat / 16) * (16 * (msb.toNat % 16) + lsb.toNat % 16),
        luxScale (2 ^ (msb.toNat / 16) * (16 * (msb.toNat % 16) + lsb.toNat % 16))) ∧
    luxExponent msb = msb.toNat / 16 ∧ luxMantissa msb lsb = 16 * (msb.toNat % 16) + lsb.toNat % 16 ∧
    luxExponent msb ≤ 15 ∧ 1 <<< luxExponent msb ≤ 32768 ∧ luxMantissa msb lsb ≤ 255 ∧
    luxCount msb lsb ≤ 8355840 ∧ luxCount msb lsb < 2 ^ 23) ∧
  (∀ n : Nat, n < 2 ^ 24 →
    (f32OfNat n).toNat < binary32.infBits ∧
    significandOf binary32 (f32OfNat n).toNat * 2 ^ (exponentOf binary32 (f32OfNat n).toNat - binary32.minExp).toNat =
      n * 2 ^ 149)

/-- R88: RDLUX reads two bytes from 0x03 and decodes them, whatever `CFG` is, and does not change `CFG`. The block's
`lux_scale` is the F32 reading, as R7 and R86 set LUX_ARITH by decision D6 (log 7). -/
def Obligations.RdluxResult : Prop :=
  encodeWord .rdlux = 0x60#8 ∧ (∀ count, luxScale count = luxScaleUnder .f32 count) ∧
  ∀ s : State, ∃ r, (∀ c : Byte, exec .rdlux { s with cfg := c } = .next (afterRead { s with cfg := c } 0x03#8 2 r)) ∧
    (∀ msb lsb : Byte, s.readAnswer 2 = .data #v[msb, lsb] →
      r = .okLux (2 ^ (msb.toNat / 16) * (16 * (msb.toNat % 16) + lsb.toNat % 16))
        (luxScaleUnder .f32 (2 ^ (msb.toNat / 16) * (16 * (msb.toNat % 16) + lsb.toNat % 16)))) ∧
    (∀ e, s.readAnswer 2 = .err e → r = .errTransport e)

/-- R89: RDTIM reads one byte from 0x02 and gives the value of its bits 2:0, whatever `CFG` is. -/
def Obligations.RdtimResult : Prop :=
  encodeWord .rdtim = 0x70#8 ∧
  ∀ s : State, ∃ r, (∀ c : Byte, exec .rdtim { s with cfg := c } = .next (afterRead { s with cfg := c } 0x02#8 1 r)) ∧
    (∀ b : Byte, s.readAnswer 1 = .data #v[b] → ∃ t, r = .okTim t ∧ (encTim t).toNat = b.toNat % 8) ∧
    (∀ e, s.readAnswer 1 = .err e → r = .errTransport e)

/-- R90: RDCDR reads one byte from 0x02 and gives the value of its bit 3, whatever `CFG` is. -/
def Obligations.RdcdrResult : Prop :=
  encodeWord .rdcdr = 0x80#8 ∧
  ∀ s : State, ∃ r, (∀ c : Byte, exec .rdcdr { s with cfg := c } = .next (afterRead { s with cfg := c } 0x02#8 1 r)) ∧
    (∀ b : Byte, s.readAnswer 1 = .data #v[b] → r = .okCdr (if b.getLsbD 3 then .oneEighth else .one)) ∧
    (∀ e, s.readAnswer 1 = .err e → r = .errTransport e)

/-- R91: RDINT reads one byte from 0x00 and gives whether it is non-zero, whatever `CFG` is. -/
def Obligations.RdintResult : Prop :=
  encodeWord .rdint = 0x90#8 ∧
  ∀ s : State, ∃ r, (∀ c : Byte, exec .rdint { s with cfg := c } = .next (afterRead { s with cfg := c } 0x00#8 1 r)) ∧
    (∀ b : Byte, s.readAnswer 1 = .data #v[b] → r = .okBool (decide (b ≠ 0x00#8))) ∧
    (∀ e, s.readAnswer 1 = .err e → r = .errTransport e)

/-- R92: the frame of the four readers: `RESULT` and one `WriteRead` with a 1-byte write part. -/
def Obligations.ReadersFrame : Prop :=
  ∀ (i : Instr) (s : State), i ∈ [Instr.rdlux, .rdtim, .rdcdr, .rdint] →
    ∃ reg n r, exec i s = .next (afterRead s reg n r)

/-- R70: RELEASE sets `LIFE` and `RESULT` alone, issues no request, and a word handed over after it is refused. That the
word is taken off the host's list is the model's choice (log 1). -/
def Obligations.ReleaseEffect : Prop :=
  encodeWord .release = 0xA0#8 ∧
  ∀ s : State, exec .release s = .next { s with life := .released, result := .okReleased } ∧
    ∀ (w : Byte) (rest : List HostInput), s.host = .word w :: rest →
      step { s with life := .released, result := .okReleased } = .next { s with
        life := .released
        result := .okReleased
        host := rest
        refused := s.refused.or (some .afterRelease) }

/-! ## Errors and traffic -/

/-- R94, R99: a command that ends in a transport error reports the oracle's own error value after its one request, and
changes nothing but `RESULT`, the log and the oracle's place; one that is not available changes `RESULT` alone. -/
def Obligations.FailedCommandKeepsState : Prop :=
  ∀ (i : Instr) (s t : State), exec i s = .next t →
    (∀ e, t.result = .errTransport e → ∃ q, t = { s with
      result := .errTransport e
      busLog := s.busLog ++ [(q, .err e)]
      answers := s.answers.tail
      draws := s.draws + 1 }) ∧
    (∀ q e, t.busLog = s.busLog ++ [(q, .err e)] → t.result = .errTransport e) ∧
    (t.result = .errNotAvailable → t = { s with result := .errNotAvailable })

/-- R36, R40: the request of each command, which a setter issues even when the byte is the one of `CFG`; RELEASE and a
guarded command in automatic mode issue none. -/
def Obligations.RequestOfEachCommand : Prop :=
  ∀ (i : Instr) (s t : State), exec i s = .next t →
    match i with
    | .setmeas _ => ∃ v a, t.busLog = s.busLog ++ [(.write s.devAddr [0x02#8, v], a)]
    | .setcfgm _ => ∃ v a, t.busLog = s.busLog ++ [(.write s.devAddr [0x02#8, v], a)]
    | .setcdr _ => if s.cfg.getLsbD 6 then ∃ v a, t.busLog = s.busLog ++ [(.write s.devAddr [0x02#8, v], a)]
        else t.busLog = s.busLog
    | .settim _ => if s.cfg.getLsbD 6 then ∃ v a, t.busLog = s.busLog ++ [(.write s.devAddr [0x02#8, v], a)]
        else t.busLog = s.busLog
    | .setinten _ => ∃ v a, t.busLog = s.busLog ++ [(.write s.devAddr [0x01#8, v], a)]
    | .rdlux => ∃ a, t.busLog = s.busLog ++ [(.writeRead s.devAddr [0x03#8] 2, a)]
    | .rdtim => ∃ a, t.busLog = s.busLog ++ [(.writeRead s.devAddr [0x02#8] 1, a)]
    | .rdcdr => ∃ a, t.busLog = s.busLog ++ [(.writeRead s.devAddr [0x02#8] 1, a)]
    | .rdint => ∃ a, t.busLog = s.busLog ++ [(.writeRead s.devAddr [0x00#8] 1, a)]
    | .release => t.busLog = s.busLog

/-- R24: no command and no word changes `DEV_ADDR`, and every request goes to it. -/
def Obligations.DevAddrFixed : Prop :=
  (∀ (i : Instr) (s t : State), exec i s = .next t →
    t.devAddr = s.devAddr ∧ (t.busLog = s.busLog ∨ ∃ q a, t.busLog = s.busLog ++ [(q, a)] ∧
      match q with
      | .write addr _ => addr = s.devAddr
      | .writeRead addr _ _ => addr = s.devAddr)) ∧
  (∀ (s t : State) (w : Byte) (rest : List HostInput), s.host = .word w :: rest → step s = .next t →
    t.devAddr = s.devAddr)

/-- R38, R43: over any number of words, the log only grows, by at most one entry a word, in command order, each entry a
request to `DEV_ADDR` with an answer that fits it. -/
def Obligations.LogGrowsInOrder : Prop :=
  ∀ (k : Nat) (s t : State), wordsOnly s → core.run k s = .next t →
    ∃ new, t.busLog = s.busLog ++ new ∧ new.length ≤ k ∧
      ∀ entry ∈ new, answerFits entry.1 entry.2 = true ∧
        match entry.1 with
        | .write addr bytes => addr = s.devAddr ∧ bytes.length = 2
        | .writeRead addr wbytes _ => addr = s.devAddr ∧ wbytes.length = 1

/-- R17, and R13 for the observation fields: no command reads the last result, the log or the mark. -/
def Obligations.CommandsReadNoObservation : Prop :=
  ∀ (i : Instr) (s : State) (r : Result BusError) (log : List (BusReq × BusAnswer BusError)) (mark : Option RefuseReason),
    ∃ t new, exec i s = .next t ∧ t.busLog = s.busLog ++ new ∧
      exec i { s with result := r, busLog := log, refused := mark } =
        .next { t with busLog := log ++ new, refused := mark }

/-- R32: the oracle can give every answer of the request's shape, with every error value of every error type, whatever the
state of the block is, and its answer depends on nothing of the block. The settled answers are the model's field (log 4). -/
def Obligations.OracleAnswersAreFree : Prop :=
  ∀ E : Type,
    (∀ (s : Generic.State E) (a : WriteAnswer E), ∃ l, ({ s with answers := l } : Generic.State E).writeAnswer = a) ∧
    (∀ (s : Generic.State E) (n : Nat) (a : ReadAnswer E n),
      ∃ l, ({ s with answers := l } : Generic.State E).readAnswer n = a) ∧
    (∀ s t : Generic.State E, s.answers = t.answers → s.draws = t.draws →
      s.writeAnswer = t.writeAnswer ∧ ∀ n, s.readAnswer n = t.readAnswer n)

/-- R7, D7: the error type is a parameter. The machine over any error type, `Generic.exec` and `Generic.step`, is the one of
the host's interface where the type is `BusError` (log 5); over every type it stops as that one does, and each command
completes. -/
def Obligations.ErrorTypeIsParameter : Prop :=
  (∀ (i : Instr) (s : State), exec i s = Generic.exec i s) ∧
  (∀ s : State, step s = Generic.step s) ∧
  (∀ (E : Type) (i : Instr) (s : Generic.State E), ∃ t, Generic.exec i s = .next t) ∧
  (∀ (E : Type) (s : Generic.State E), s.host = [] → Generic.step s = .fault .noCommand) ∧
  (∀ (E : Type) (s : Generic.State E), s.host ≠ [] → ∃ t, Generic.step s = .next t)

/-- D7: nothing is assumed of the error type. For any two types and any function between them, replacing every error value
of a state, the oracle's answer to the command's request among them, replaces those of what the command leaves and changes
nothing else: no command and no step compares, orders, counts or looks into error values. -/
def Obligations.ErrorValuesUninterpreted : Prop :=
  ∀ (E F : Type) (f : E → F) (s : Generic.State E),
    (∀ i, answerRenamed f s i →
      ∃ t, Generic.exec i s = .next t ∧ Generic.exec i (s.mapErrors f) = .next (t.mapErrors f)) ∧
    ((∀ w rest i, s.host = .word w :: rest → decodeWord w = .ok i → answerRenamed f s i) →
      ∀ t, Generic.step s = .next t → Generic.step (s.mapErrors f) = .next (t.mapErrors f))

/-! ## The lux arithmetic -/

/-- 95_test_vectors.md V5: the count of each row, each of its 14 counts in the F32 column and in the F64 column ("same" where V5 says so), and the
exact value of `LUX_C` (R86). The constant of the F64 reading is log 9's. -/
def Obligations.LuxVectors : Prop :=
  (∀ p ∈ [(0x00#8, 0x01#8, 1), (0x01#8, 0x00#8, 16), (0xEF#8, 0x0F#8, 4177920), (0xEF#8, 0x00#8, 3932160), (0x00#8, 0x00#8, 0),
      (0xF0#8, 0x00#8, 0), (0xE0#8, 0x00#8, 0), (0x0F#8, 0x0F#8, 255), (0x00#8, 0xF1#8, 1), (0x10#8, 0x01#8, 2)],
    luxCount p.1 p.2.1 = p.2.2) ∧
  (∀ p ∈ [(0x30#8, 0x02#8, 16), (0x05#8, 0x0A#8, 90), (0x12#8, 0x34#8, 72), (0x7A#8, 0x5C#8, 22016), (0x80#8, 0x08#8, 2048),
      (0xF0#8, 0xFF#8, 491520), (0xFF#8, 0xF9#8, 8159232), (0xFF#8, 0xFF#8, 8355840)],
    luxCount p.1 p.2.1 = p.2.2) ∧
  (∀ p ∈ [(0, 0x00000000#32, 0x00000000#32), (1, 0x3D3851EC#32, 0x3D3851EC#32), (2, 0x3DB851EC#32, 0x3DB851EC#32),
      (16, 0x3F3851EC#32, 0x3F3851EC#32), (72, 0x404F5C2A#32, 0x404F5C29#32), (90, 0x4081999A#32, 0x4081999A#32),
      (255, 0x4137999A#32, 0x4137999A#32), (2048, 0x42B851EC#32, 0x42B851EC#32), (22016, 0x4477AE15#32, 0x4477AE14#32)],
    luxScaleUnder .f32 p.1 = p.2.1 ∧ luxScaleUnder .f64 p.1 = p.2.2) ∧
  (∀ p ∈ [(491520, 0x46ACCCCD#32, 0x46ACCCCD#32), (3932160, 0x482CCCCD#32, 0x482CCCCD#32), (4177920, 0x4837999A#32, 0x4837999A#32),
      (8159232, 0x48B347AF#32, 0x48B347AE#32), (8355840, 0x48B7999A#32, 0x48B7999A#32)],
    luxScaleUnder .f32 p.1 = p.2.1 ∧ luxScaleUnder .f64 p.1 = p.2.2) ∧
  significandOf binary32 Config.luxC.toNat = 3019899 * 2 ^ 2 ∧ exponentOf binary32 Config.luxC.toNat = -(26 + 2)

/-- R87: under F32 the lux value is never NaN, infinite or negative; it is +0.0 exactly when M = 0; otherwise it lies
between the two values the rule gives; it is monotone in the count. -/
def Obligations.LuxScaleProperties : Prop :=
  (∀ msb lsb : Byte,
    (luxScaleUnder .f32 (luxCount msb lsb)).toNat < 0x7F800000 ∧
    (luxScaleUnder .f32 (luxCount msb lsb) = 0#32 ↔ luxMantissa msb lsb = 0) ∧
    (luxMantissa msb lsb ≠ 0 →
      0x3D3851EC ≤ (luxScaleUnder .f32 (luxCount msb lsb)).toNat ∧
      (luxScaleUnder .f32 (luxCount msb lsb)).toNat ≤ 0x48B7999A)) ∧
  luxScaleUnder .f32 1 = 0x3D3851EC#32 ∧ luxScaleUnder .f32 8355840 = 0x48B7999A#32 ∧
  (∀ c d : Nat, c ≤ d → d ≤ 8355840 → (luxScaleUnder .f32 c).toNat ≤ (luxScaleUnder .f32 d).toNat)

/-- R86 with R9: the F32 lux value is the binary32 value nearest to the exact product of the count and `LUX_C`, and of two
equally near ones the even one. Both sides are in units of `2^-149`: an encoding `x` is
`significandOf x * 2^(exponentOf x + 149)`, and the product is `count * 3019899 * 2^123`. That products round so is
PRESUMED (log 8): the spec takes it from general knowledge (G2). -/
def Obligations.LuxRoundsToNearestEven : Prop :=
  ∀ count : Nat, count < 2 ^ 24 → ∀ y : Nat, y < 0x7F800000 →
    let value := fun x : Nat => ((significandOf binary32 x * 2 ^ (exponentOf binary32 x + 149).toNat : Nat) : Int)
    let x := (luxScaleUnder .f32 count).toNat
    let exact : Int := count * 3019899 * 2 ^ 123
    (value x - exact).natAbs ≤ (value y - exact).natAbs ∧
      ((value x - exact).natAbs = (value y - exact).natAbs → y ≠ x → x % 2 = 0)

/-- R86: under F32 every association of the product gives the same value, for all exponents and mantissas. -/
def Obligations.LuxAssociation : Prop :=
  ∀ e m : Nat, e < 16 → m < 256 →
    mulF32 (f32OfNat (2 ^ e)) (mulF32 (f32OfNat m) Config.luxC) = luxScaleUnder .f32 (2 ^ e * m) ∧
    mulF32 (mulF32 (f32OfNat (2 ^ e)) (f32OfNat m)) Config.luxC = luxScaleUnder .f32 (2 ^ e * m)

/-! ## Invariants -/

/-- Creation meets the invariant, whatever the selector is and whatever inputs are placed; so does State.reset. -/
def Obligations.InvAtCreation : Prop :=
  (∀ (sel : AddressSelector) (words : List Byte) (answers : List (BusAnswer BusError)),
    BlockInv ((State.create sel).withInputs words answers)) ∧ BlockInv State.reset

/-- Every step keeps the invariant: reserved bits clear (R21), `CFG` the last byte written with success (R23), only the
block's own requests to its own address (R24, R36), and the life cycle's marks (R70, R96). -/
def Obligations.InvKeptByEveryStep : Prop :=
  ∀ s t : State, BlockInv s → step s = .next t → BlockInv t

/-- 10_state.md section 3: the values of `CFG` a run can reach are exactly the bytes with bits 5:4 = 00, all of them with
writes that succeed. There are 64 of them; R22 says 128, which `ReservedClearBytesNumber128` states (log 13). The words are
placed as the host's inputs and the answers as settled ones, which is the model's choice (log 1, log 4, log 12). -/
def Obligations.ReachableCfgExact : Prop :=
  (∀ (sel : AddressSelector) (b : Byte), b &&& 0x30#8 = 0#8 →
    ∃ words t, core.run words.length
        ((State.create sel).withInputs words (List.replicate words.length .ok)) = .next t ∧
      t.cfg = b ∧ t.refused = none) ∧
  (∀ (sel : AddressSelector) (words : List Byte) (answers : List (BusAnswer BusError)) (k : Nat) (t : State),
    core.run k ((State.create sel).withInputs words answers) = .next t → t.cfg &&& 0x30#8 = 0#8) ∧
  ((List.range 256).filter (fun n => BitVec.ofNat 8 n &&& 0x30#8 == 0#8)).length = 64

/-- R22's number as it stands: the bytes a run can leave in `CFG` are 128. EXPECTED TO FAIL (log 13): two of the eight bits
are fixed, so there are 64. -/
def Obligations.ReservedClearBytesNumber128 : Prop :=
  ∃ bytes : List Byte, bytes.Nodup ∧ bytes.length = 128 ∧
    ∀ b ∈ bytes, ∃ (words : List Byte) (answers : List (BusAnswer BusError)) (k : Nat) (t : State),
      core.run k (State.reset.withInputs words answers) = .next t ∧ t.cfg = b
end

