-- ==== Sys2Proof/Laws/Float.lean ====
section
/-! SUPPORT. What rounding does, said once: the two cases of `roundShift`, its distance from the exact value, and that it
is monotone; and the formats' constants. -/

namespace Sys2Proof.Laws

open Sys2Proof.Machine

@[simp] theorem binary32_minExp : binary32.minExp = -149 := by decide
@[simp] theorem binary32_infBits : binary32.infBits = 0x7F800000 := by decide
@[simp] theorem binary64_minExp : binary64.minExp = -1074 := by decide
@[simp] theorem binary32_fracBits : binary32.fracBits = 23 := rfl
@[simp] theorem binary64_fracBits : binary64.fracBits = 52 := rfl

/-- The two cases of rounding, by the quotient and the remainder. -/
theorem roundShift_cases (m k : Nat) :
    (roundShift m k = m / 2 ^ k ∧
      (2 * (m % 2 ^ k) < 2 ^ k ∨ (2 * (m % 2 ^ k) = 2 ^ k ∧ m / 2 ^ k % 2 = 0))) ∨
    (roundShift m k = m / 2 ^ k + 1 ∧
      (2 ^ k < 2 * (m % 2 ^ k) ∨ (2 * (m % 2 ^ k) = 2 ^ k ∧ m / 2 ^ k % 2 = 1))) := by
  simp only [roundShift]
  split
  · exact .inr ⟨rfl, by omega⟩
  · exact .inl ⟨rfl, by omega⟩

/-- The rounded value lies within half a unit of the exact one, and on the even side when it lies halfway. -/
theorem roundShift_near (m k : Nat) :
    2 * (roundShift m k * 2 ^ k) ≤ 2 * m + 2 ^ k ∧ 2 * m ≤ 2 * (roundShift m k * 2 ^ k) + 2 ^ k ∧
      (2 * (roundShift m k * 2 ^ k) = 2 * m + 2 ^ k → roundShift m k % 2 = 0) ∧
      (2 * m = 2 * (roundShift m k * 2 ^ k) + 2 ^ k → roundShift m k % 2 = 0) := by
  have hm := Nat.div_add_mod' m (2 ^ k)
  have hr := Nat.mod_lt m (Nat.two_pow_pos k)
  rcases roundShift_cases m k with ⟨h, hc⟩ | ⟨h, hc⟩ <;> rw [h]
  · generalize m / 2 ^ k * 2 ^ k = p at *
    refine ⟨?_, ?_, ?_, ?_⟩ <;> omega
  · have he : (m / 2 ^ k + 1) * 2 ^ k = m / 2 ^ k * 2 ^ k + 2 ^ k := Nat.add_one_mul _ _
    rw [he]
    clear he h
    generalize m / 2 ^ k * 2 ^ k = p at *
    refine ⟨?_, ?_, ?_, ?_⟩ <;> omega

/-- Rounding is monotone. -/
theorem roundShift_mono (m n k : Nat) (h : m ≤ n) : roundShift m k ≤ roundShift n k := by
  have hq : m / 2 ^ k ≤ n / 2 ^ k := Nat.div_le_div_right h
  rcases Nat.lt_or_eq_of_le hq with hlt | heq
  · rcases roundShift_cases m k with ⟨hm, _⟩ | ⟨hm, _⟩ <;> rcases roundShift_cases n k with ⟨hn, _⟩ | ⟨hn, _⟩ <;>
      rw [hm, hn] <;> omega
  · have hm := Nat.div_add_mod' m (2 ^ k)
    have hn := Nat.div_add_mod' n (2 ^ k)
    have hr : m % 2 ^ k ≤ n % 2 ^ k := by rw [heq] at hm; omega
    rcases roundShift_cases m k with ⟨h1, c1⟩ | ⟨h1, c1⟩ <;> rcases roundShift_cases n k with ⟨h2, c2⟩ | ⟨h2, c2⟩ <;>
      rw [h1, h2] <;> omega

/-- Nothing is rounded when nothing is shifted out. -/
theorem roundShift_exact (q k : Nat) : roundShift (q * 2 ^ k) k = q := by
  have := Nat.two_pow_pos k
  simp [roundShift, Nat.mul_div_cancel _ this, this.ne]

end Sys2Proof.Laws
end

