-- ==== Sys2Proof/Laws/State.lean ====
section
/-! SUPPORT. One lemma per field and update of State, so that no later proof unfolds an update. -/

namespace Sys2Proof.Laws

open Sys2Proof.Machine

variable {E : Type}

@[simp] theorem logged_cfg (s : Generic.State E) (q : BusReq) (a : BusAnswer E) : (s.logged q a).cfg = s.cfg := rfl
@[simp] theorem logged_devAddr (s : Generic.State E) (q : BusReq) (a : BusAnswer E) : (s.logged q a).devAddr = s.devAddr := rfl
@[simp] theorem logged_life (s : Generic.State E) (q : BusReq) (a : BusAnswer E) : (s.logged q a).life = s.life := rfl
@[simp] theorem logged_result (s : Generic.State E) (q : BusReq) (a : BusAnswer E) : (s.logged q a).result = s.result := rfl
@[simp] theorem logged_busLog (s : Generic.State E) (q : BusReq) (a : BusAnswer E) : (s.logged q a).busLog = s.busLog ++ [(q, a)] := rfl
@[simp] theorem logged_refused (s : Generic.State E) (q : BusReq) (a : BusAnswer E) : (s.logged q a).refused = s.refused := rfl
@[simp] theorem logged_host (s : Generic.State E) (q : BusReq) (a : BusAnswer E) : (s.logged q a).host = s.host := rfl
@[simp] theorem logged_answers (s : Generic.State E) (q : BusReq) (a : BusAnswer E) : (s.logged q a).answers = s.answers.tail := rfl
@[simp] theorem logged_draws (s : Generic.State E) (q : BusReq) (a : BusAnswer E) : (s.logged q a).draws = s.draws + 1 := rfl

@[simp] theorem returning_cfg (v : Result E) (s : Generic.State E) : (returning v s).cfg = s.cfg := rfl
@[simp] theorem returning_devAddr (v : Result E) (s : Generic.State E) : (returning v s).devAddr = s.devAddr := rfl
@[simp] theorem returning_life (v : Result E) (s : Generic.State E) : (returning v s).life = s.life := rfl
@[simp] theorem returning_result (v : Result E) (s : Generic.State E) : (returning v s).result = v := rfl
@[simp] theorem returning_busLog (v : Result E) (s : Generic.State E) : (returning v s).busLog = s.busLog := rfl
@[simp] theorem returning_refused (v : Result E) (s : Generic.State E) : (returning v s).refused = s.refused := rfl
@[simp] theorem returning_host (v : Result E) (s : Generic.State E) : (returning v s).host = s.host := rfl
@[simp] theorem returning_answers (v : Result E) (s : Generic.State E) : (returning v s).answers = s.answers := rfl
@[simp] theorem returning_draws (v : Result E) (s : Generic.State E) : (returning v s).draws = s.draws := rfl

@[simp] theorem raising_cfg (x : CommandError E) (s : Generic.State E) : (raising x s).cfg = s.cfg := rfl
@[simp] theorem raising_devAddr (x : CommandError E) (s : Generic.State E) : (raising x s).devAddr = s.devAddr := rfl
@[simp] theorem raising_life (x : CommandError E) (s : Generic.State E) : (raising x s).life = s.life := rfl
@[simp] theorem raising_result (x : CommandError E) (s : Generic.State E) : (raising x s).result = x.toResult := rfl
@[simp] theorem raising_busLog (x : CommandError E) (s : Generic.State E) : (raising x s).busLog = s.busLog := rfl
@[simp] theorem raising_refused (x : CommandError E) (s : Generic.State E) : (raising x s).refused = s.refused := rfl
@[simp] theorem raising_host (x : CommandError E) (s : Generic.State E) : (raising x s).host = s.host := rfl
@[simp] theorem raising_answers (x : CommandError E) (s : Generic.State E) : (raising x s).answers = s.answers := rfl
@[simp] theorem raising_draws (x : CommandError E) (s : Generic.State E) : (raising x s).draws = s.draws := rfl

@[simp] theorem refuse_cfg (r : RefuseReason) (s : Generic.State E) : (refuse r s).cfg = s.cfg := rfl
@[simp] theorem refuse_devAddr (r : RefuseReason) (s : Generic.State E) : (refuse r s).devAddr = s.devAddr := rfl
@[simp] theorem refuse_life (r : RefuseReason) (s : Generic.State E) : (refuse r s).life = s.life := rfl
@[simp] theorem refuse_result (r : RefuseReason) (s : Generic.State E) : (refuse r s).result = s.result := rfl
@[simp] theorem refuse_busLog (r : RefuseReason) (s : Generic.State E) : (refuse r s).busLog = s.busLog := rfl
@[simp] theorem refuse_refused (r : RefuseReason) (s : Generic.State E) : (refuse r s).refused = s.refused.or (some r) := rfl
@[simp] theorem refuse_host (r : RefuseReason) (s : Generic.State E) : (refuse r s).host = s.host := rfl
@[simp] theorem refuse_answers (r : RefuseReason) (s : Generic.State E) : (refuse r s).answers = s.answers := rfl
@[simp] theorem refuse_draws (r : RefuseReason) (s : Generic.State E) : (refuse r s).draws = s.draws := rfl

@[simp] theorem handOver_cfg (s : Generic.State E) (w : Byte) : (s.handOver w).cfg = s.cfg := rfl
@[simp] theorem handOver_devAddr (s : Generic.State E) (w : Byte) : (s.handOver w).devAddr = s.devAddr := rfl
@[simp] theorem handOver_life (s : Generic.State E) (w : Byte) : (s.handOver w).life = s.life := rfl
@[simp] theorem handOver_result (s : Generic.State E) (w : Byte) : (s.handOver w).result = s.result := rfl
@[simp] theorem handOver_busLog (s : Generic.State E) (w : Byte) : (s.handOver w).busLog = s.busLog := rfl
@[simp] theorem handOver_refused (s : Generic.State E) (w : Byte) : (s.handOver w).refused = s.refused := rfl
@[simp] theorem handOver_host (s : Generic.State E) (w : Byte) : (s.handOver w).host = .word w :: s.host := rfl
@[simp] theorem handOver_answers (s : Generic.State E) (w : Byte) : (s.handOver w).answers = s.answers := rfl
@[simp] theorem handOver_draws (s : Generic.State E) (w : Byte) : (s.handOver w).draws = s.draws := rfl

@[simp] theorem create_cfg (sel : AddressSelector) : (State.create sel).cfg = 0x00#8 := rfl
@[simp] theorem create_devAddr (sel : AddressSelector) : (State.create sel).devAddr = resolveAddr sel := rfl
@[simp] theorem create_life (sel : AddressSelector) : (State.create sel).life = .live := rfl
@[simp] theorem create_result (sel : AddressSelector) : (State.create sel).result = .none := rfl
@[simp] theorem create_busLog (sel : AddressSelector) : (State.create sel).busLog = [] := rfl
@[simp] theorem create_refused (sel : AddressSelector) : (State.create sel).refused = none := rfl
@[simp] theorem create_host (sel : AddressSelector) : (State.create sel).host = [] := rfl
@[simp] theorem create_answers (sel : AddressSelector) : (State.create sel).answers = [] := rfl
@[simp] theorem create_draws (sel : AddressSelector) : (State.create sel).draws = 0 := rfl

@[simp] theorem recreate_cfg (sel : AddressSelector) (s : Generic.State E) : (recreate sel s).cfg = 0x00#8 := rfl
@[simp] theorem recreate_devAddr (sel : AddressSelector) (s : Generic.State E) : (recreate sel s).devAddr = resolveAddr sel := rfl
@[simp] theorem recreate_life (sel : AddressSelector) (s : Generic.State E) : (recreate sel s).life = .live := rfl
@[simp] theorem recreate_result (sel : AddressSelector) (s : Generic.State E) : (recreate sel s).result = .none := rfl
@[simp] theorem recreate_busLog (sel : AddressSelector) (s : Generic.State E) : (recreate sel s).busLog = [] := rfl
@[simp] theorem recreate_refused (sel : AddressSelector) (s : Generic.State E) : (recreate sel s).refused = none := rfl
@[simp] theorem recreate_host (sel : AddressSelector) (s : Generic.State E) : (recreate sel s).host = s.host := rfl
@[simp] theorem recreate_answers (sel : AddressSelector) (s : Generic.State E) : (recreate sel s).answers = s.answers := rfl
@[simp] theorem recreate_draws (sel : AddressSelector) (s : Generic.State E) : (recreate sel s).draws = s.draws := rfl

@[simp] theorem transport_toResult (e : E) : (CommandError.transport e : CommandError E).toResult = .errTransport e := rfl
@[simp] theorem notAvailable_toResult : (CommandError.notAvailable : CommandError E).toResult = .errNotAvailable := rfl

end Sys2Proof.Laws
end

