-- ==== Sys2Proof/Laws/Ops.lean ====
section
/-! SUPPORT. For each shared operation, one lemma that says everything it can do; later proofs cite these and do not
unfold the operations. -/

namespace Sys2Proof.Laws

open Sys2Proof.Machine

variable {E : Type}

/-! ## Answers of the bus -/

theorem writeAnswer_fits (a : Addr7) (bytes : List Byte) (w : WriteAnswer E) : answerFits (.write a bytes) w.toBus = true := by
  cases w <;> rfl

theorem readAnswer_fits {n : Nat} (a : Addr7) (bytes : List Byte) (r : ReadAnswer E n) :
    answerFits (.writeRead a bytes n) r.toBus = true := by
  cases r <;> simp [answerFits, ReadAnswer.toBus]

/-- A settled answer that fits is the oracle's answer. -/
theorem writeAnswer_settled (s : Generic.State E) (a : WriteAnswer E) (rest : List (BusAnswer E)) (h : s.answers = a.toBus :: rest) :
    s.writeAnswer = a := by
  cases a <;> simp [Generic.State.writeAnswer, h, WriteAnswer.toBus]

theorem readAnswer_settled {n : Nat} (s : Generic.State E) (a : ReadAnswer E n) (rest : List (BusAnswer E))
    (h : s.answers = a.toBus :: rest) : s.readAnswer n = a := by
  cases a <;> simp [Generic.State.readAnswer, h, ReadAnswer.toBus, Vector.toList]

/-! ## Renaming of error values -/

@[simp] theorem mapErrors_cfg {F : Type} (f : E → F) (s : Generic.State E) : (s.mapErrors f).cfg = s.cfg := rfl
@[simp] theorem mapErrors_devAddr {F : Type} (f : E → F) (s : Generic.State E) : (s.mapErrors f).devAddr = s.devAddr := rfl
@[simp] theorem mapErrors_life {F : Type} (f : E → F) (s : Generic.State E) : (s.mapErrors f).life = s.life := rfl
@[simp] theorem mapErrors_result {F : Type} (f : E → F) (s : Generic.State E) : (s.mapErrors f).result = s.result.mapErrors f := rfl
@[simp] theorem mapErrors_busLog {F : Type} (f : E → F) (s : Generic.State E) : (s.mapErrors f).busLog = s.busLog.map fun entry => (entry.1, entry.2.mapErrors f) := rfl
@[simp] theorem mapErrors_refused {F : Type} (f : E → F) (s : Generic.State E) : (s.mapErrors f).refused = s.refused := rfl
@[simp] theorem mapErrors_host {F : Type} (f : E → F) (s : Generic.State E) : (s.mapErrors f).host = s.host := rfl
@[simp] theorem mapErrors_answers {F : Type} (f : E → F) (s : Generic.State E) : (s.mapErrors f).answers = s.answers.map (BusAnswer.mapErrors f) := rfl
@[simp] theorem mapErrors_draws {F : Type} (f : E → F) (s : Generic.State E) : (s.mapErrors f).draws = s.draws := rfl

theorem writeAnswer_mapErrors_toBus {F : Type} (f : E → F) (a : WriteAnswer E) :
    (a.mapErrors f).toBus = a.toBus.mapErrors f := by
  cases a <;> rfl

theorem readAnswer_mapErrors_toBus {F : Type} {n : Nat} (f : E → F) (a : ReadAnswer E n) :
    (a.mapErrors f).toBus = a.toBus.mapErrors f := by
  cases a <;> rfl

/-! ## Shared bodies of the commands -/

/-- R74, in its two cases. -/
theorem writeConfig_cases (v : Byte) (s : Generic.State E) :
    (s.writeAnswer = .ok ∧
      writeConfig v s = { s.logged (.write s.devAddr [0x02#8, v]) .ok with cfg := v, result := .ok }) ∨
    (∃ e, s.writeAnswer = .err e ∧
      writeConfig v s = { s.logged (.write s.devAddr [0x02#8, v]) (.err e) with result := .errTransport e }) := by
  cases h : s.writeAnswer with
  | ok => exact .inl ⟨rfl, by simp only [writeConfig, memWrite, busWrite, h]; rfl⟩
  | err e => exact .inr ⟨e, rfl, by simp only [writeConfig, memWrite, busWrite, h]; rfl⟩

/-- R80, in its two cases. -/
theorem writeIntEnable_cases (b : Bool) (s : Generic.State E) :
    (s.writeAnswer = .ok ∧
      writeIntEnable b s = { s.logged (.write s.devAddr [0x01#8, encInten b]) .ok with result := .ok }) ∨
    (∃ e, s.writeAnswer = .err e ∧
      writeIntEnable b s =
        { s.logged (.write s.devAddr [0x01#8, encInten b]) (.err e) with result := .errTransport e }) := by
  cases h : s.writeAnswer with
  | ok => exact .inl ⟨rfl, by simp only [writeIntEnable, memWrite, busWrite, h]; rfl⟩
  | err e => exact .inr ⟨e, rfl, by simp only [writeIntEnable, memWrite, busWrite, h]; rfl⟩

/-- The readers' common body, in its two cases. -/
theorem readRegister_cases (reg : Byte) (n : Nat) (value : Vector Byte n → Result E) (s : Generic.State E) :
    (∃ bytes, s.readAnswer n = .data bytes ∧
      readRegister reg n value s =
        { s.logged (.writeRead s.devAddr [reg] n) (.data bytes.toList) with result := value bytes }) ∨
    (∃ e, s.readAnswer n = .err e ∧
      readRegister reg n value s =
        { s.logged (.writeRead s.devAddr [reg] n) (.err e) with result := .errTransport e }) := by
  cases h : s.readAnswer n with
  | data bytes => exact .inl ⟨bytes, rfl, by simp only [readRegister, memRead, busWriteRead, h]; rfl⟩
  | err e => exact .inr ⟨e, rfl, by simp only [readRegister, memRead, busWriteRead, h]; rfl⟩

/-- The result a reader makes of an answer. -/
def readResult {n : Nat} (value : Vector Byte n → Result E) : ReadAnswer E n → Result E
  | .data bytes => value bytes
  | .err e => .errTransport e

/-- R92: all that a reader's body does. -/
theorem readRegister_eq (reg : Byte) (n : Nat) (value : Vector Byte n → Result E) (s : Generic.State E) :
    readRegister reg n value s = afterRead s reg n (readResult value (s.readAnswer n)) := by
  rcases readRegister_cases reg n value s with ⟨bytes, ha, h⟩ | ⟨e, ha, h⟩ <;> rw [h, ha] <;>
    simp [afterRead, readResult, ha, ReadAnswer.toBus, Generic.State.logged]

/-- R75: the test of the guard is bit 6 of `CFG`. -/
theorem manualClear_iff (c : Byte) : manualClear c = true ↔ c.getLsbD 6 = false := by
  revert c; decide

theorem guardManual_closed (body : Generic.State E → Generic.State E) (s : Generic.State E) (h : s.cfg.getLsbD 6 = false) :
    guardManual body s = { s with result := .errNotAvailable } := by
  simp [guardManual, (manualClear_iff _).mpr h, raising]

theorem guardManual_open (body : Generic.State E → Generic.State E) (s : Generic.State E) (h : s.cfg.getLsbD 6 = true) :
    guardManual body s = body s := by
  have hc : ¬ manualClear s.cfg = true := fun hc => by rw [(manualClear_iff _).mp hc] at h; cases h
  rw [guardManual, if_neg hc]

/-! ## Renaming and the shared bodies (D7): renaming before a body is renaming after it -/

theorem writeConfig_mapErrors {F : Type} (f : E → F) (v : Byte) (s : Generic.State E)
    (h : (s.mapErrors f).writeAnswer = s.writeAnswer.mapErrors f) :
    writeConfig v (s.mapErrors f) = (writeConfig v s).mapErrors f := by
  rcases writeConfig_cases v s with ⟨ha, hs⟩ | ⟨e, ha, hs⟩ <;>
    rcases writeConfig_cases v (s.mapErrors f) with ⟨hb, ht⟩ | ⟨e', hb, ht⟩ <;>
    rw [h, ha] at hb <;> cases hb <;> rw [hs, ht] <;>
    simp [Generic.State.mapErrors, Generic.State.logged, Result.mapErrors, BusAnswer.mapErrors]

theorem writeIntEnable_mapErrors {F : Type} (f : E → F) (b : Bool) (s : Generic.State E)
    (h : (s.mapErrors f).writeAnswer = s.writeAnswer.mapErrors f) :
    writeIntEnable b (s.mapErrors f) = (writeIntEnable b s).mapErrors f := by
  rcases writeIntEnable_cases b s with ⟨ha, hs⟩ | ⟨e, ha, hs⟩ <;>
    rcases writeIntEnable_cases b (s.mapErrors f) with ⟨hb, ht⟩ | ⟨e', hb, ht⟩ <;>
    rw [h, ha] at hb <;> cases hb <;> rw [hs, ht] <;>
    simp [Generic.State.mapErrors, Generic.State.logged, Result.mapErrors, BusAnswer.mapErrors]

theorem readRegister_mapErrors {F : Type} (f : E → F) (reg : Byte) (n : Nat) (value : Vector Byte n → Result E)
    (value' : Vector Byte n → Result F) (s : Generic.State E) (hv : ∀ bytes, (value bytes).mapErrors f = value' bytes)
    (h : (s.mapErrors f).readAnswer n = (s.readAnswer n).mapErrors f) :
    readRegister reg n value' (s.mapErrors f) = (readRegister reg n value s).mapErrors f := by
  rcases readRegister_cases reg n value s with ⟨bytes, ha, hs⟩ | ⟨e, ha, hs⟩ <;>
    rcases readRegister_cases reg n value' (s.mapErrors f) with ⟨bytes', hb, ht⟩ | ⟨e', hb, ht⟩ <;>
    rw [h, ha] at hb <;> cases hb <;> rw [hs, ht] <;>
    simp [Generic.State.mapErrors, Generic.State.logged, Result.mapErrors, BusAnswer.mapErrors, ← hv]

/-! ## The log -/

theorem lastConfig_append (log : List (BusReq × BusAnswer E)) (entry : BusReq × BusAnswer E) :
    lastConfig (log ++ [entry]) = configAfter (lastConfig log) entry := by
  simp [lastConfig, List.foldl_append]

@[simp] theorem configAfter_read (c : Byte) (a : Addr7) (bytes : List Byte) (n : Nat) (x : BusAnswer E) :
    configAfter c (.writeRead a bytes n, x) = c := rfl

@[simp] theorem configAfter_failed (c : Byte) (q : BusReq) (e : E) : configAfter c (q, .err e) = c := by
  unfold configAfter; split <;> simp_all

@[simp] theorem configAfter_config (c v : Byte) (a : Addr7) : configAfter c (.write a [0x02#8, v], (.ok : BusAnswer E)) = v := rfl

@[simp] theorem configAfter_intEnable (c v : Byte) (a : Addr7) : configAfter c (.write a [0x01#8, v], (.ok : BusAnswer E)) = c := rfl

/-! ## The step -/

/-- The command of the host's interface is the generic one. -/
theorem exec_generic (i : Instr) (s : State) : exec i s = Generic.exec i s := by cases i <;> rfl

theorem step_word (s : State) (w : Byte) (rest : List HostInput) (h : s.host = .word w :: rest) :
    step s = stepWord exec w { s with host := rest } := by
  simp [step, stepHost, h]

theorem step_creation (s : State) (sel : AddressSelector) (rest : List HostInput) (h : s.host = .create sel :: rest) :
    step s = .next (recreate sel { s with host := rest }) := by
  simp [step, stepHost, h]

/-- A run takes its first step, then runs on. -/
theorem run_succ (k : Nat) (s t : State) (h : step s = .next t) : core.run (k + 1) s = core.run k t := by
  have hc : core.step s = .next t := h
  simp only [Host.Core.run, hc]

/-- A run of one step more answers a next state only through a next state of its first step. -/
theorem run_succ_next (k : Nat) (s u : State) (h : core.run (k + 1) s = .next u) :
    ∃ t, step s = .next t ∧ core.run k t = .next u := by
  match hs : step s with
  | .next t => exact ⟨t, rfl, by rw [← run_succ k s t hs]; exact h⟩
  | .fault r =>
    have hc : core.step s = .fault r := hs
    simp [Host.Core.run, hc] at h
  | .refused r =>
    have hc : core.step s = .refused r := hs
    simp [Host.Core.run, hc] at h

end Sys2Proof.Laws
end

