-- ==== Sys2Proof/Laws/PerInstr.lean ====
section
/-! SUPPORT. Statements made once per command: the word of a command fits its own row of the opcode map, and only the
operand's bits of it vary. -/

namespace Sys2Proof.Laws.OwnRow

/-- The word of `i` passes the format checks of R59, and the only row of R62 that accepts it is the one with `i`'s
mnemonic. -/
def Statement (i : Instr) : Prop :=
  i.wellFormed = true ∧ wordWellFormed (encodeWord i) = true ∧
    (opcodeMap.filter (fun r => r.accepts (encodeWord i))).map OpRow.mnemonic = [mnemonicOf i]

theorem setmeas (m : MeasurementMode) : Statement (.setmeas m) := by unfold Statement; cases m <;> decide
theorem setcfgm (c : ConfigurationMode) : Statement (.setcfgm c) := by unfold Statement; cases c <;> decide
theorem setcdr (r : CurrentDivisionRatio) : Statement (.setcdr r) := by unfold Statement; cases r <;> decide
theorem settim (t : IntegrationTime) : Statement (.settim t) := by unfold Statement; cases t <;> decide
theorem setinten (b : Bool) : Statement (.setinten b) := by unfold Statement; cases b <;> decide
theorem rdlux : Statement .rdlux := by unfold Statement; decide
theorem rdtim : Statement .rdtim := by unfold Statement; decide
theorem rdcdr : Statement .rdcdr := by unfold Statement; decide
theorem rdint : Statement .rdint := by unfold Statement; decide
theorem release : Statement .release := by unfold Statement; decide

end Sys2Proof.Laws.OwnRow
end

