-- ==== Sys2Proof/Tests/Slice0.lean ====
section
/-! SUPPORT. Tests. Expected values are those of 95_test_vectors.md (S and V numbers), of the rules' own examples, or
worked by hand from the rules; then one witness for the hypotheses of each statement. -/

namespace Sys2Proof.Tests

open Sys2Proof.Machine

/-! ## A small state -/

/-- A live block at 0x4A with `cfg`, whose next bus answers are `answers`. -/
def block (cfg : Byte) (answers : List (BusAnswer BusError)) : State :=
  { State.create .default with cfg := cfg, answers := answers }

def after (o : StepOutcome BusError) : Option State :=
  match o with
  | .next t => some t
  | .fault _ => none
  | .refused _ => none

/-- What a command left in `CFG`, `RESULT` and `BUSLOG`. -/
def left (i : Instr) (s : State) : Option (Byte × Result BusError × List (BusReq × BusAnswer BusError)) :=
  (after (exec i s)).map fun t => (t.cfg, t.result, t.busLog)

def someError : BusError := ⟨0, rfl⟩

/-! ## Words: the well-formedness checks and the decoder (V1) -/

theorem test_word_bad_opcode : wordWellFormed 0xB3#8 = false := by decide
theorem test_word_bad_opcode_zero : wordWellFormed 0x00#8 = false := by decide
theorem test_word_bad_f1_operand : wordWellFormed 0x12#8 = false := by decide
theorem test_word_bad_f3_operand : wordWellFormed 0x48#8 = false := by decide
theorem test_word_bad_f0_operand : wordWellFormed 0x61#8 = false := by decide
theorem test_word_good : ([0x10#8, 0x47#8, 0x51#8, 0xA0#8].all wordWellFormed) = true := by decide

theorem test_decode_setmeas : decodeWord 0b00010001#8 = .ok (.setmeas .continuous) := by decide
theorem test_decode_setcfgm : decodeWord 0b00100001#8 = .ok (.setcfgm .manual) := by decide
theorem test_decode_setcdr : decodeWord 0b00110001#8 = .ok (.setcdr .oneEighth) := by decide
theorem test_decode_settim : decodeWord 0b01000110#8 = .ok (.settim .t12_5ms) := by decide
theorem test_decode_setinten : decodeWord 0b01010000#8 = .ok (.setinten false) := by decide
theorem test_decode_rdlux : decodeWord 0b01100000#8 = .ok .rdlux := by decide
theorem test_decode_rdtim : decodeWord 0b01110000#8 = .ok .rdtim := by decide
theorem test_decode_rdcdr : decodeWord 0b10000000#8 = .ok .rdcdr := by decide
theorem test_decode_rdint : decodeWord 0b10010000#8 = .ok .rdint := by decide
theorem test_decode_release : decodeWord 0b10100000#8 = .ok .release := by decide
theorem test_decode_refused : decodeWord 0x58#8 = .error .f1OperandReserved := by decide
theorem test_table_word_has_no_long_form : decodeTableWord 16 0x60 = none := by decide
theorem test_assemble : assembleLine "SETTIM" (some "T100ms") = some 0x43#8 := by decide
theorem test_assemble_refuses : assembleLine "RDLUX" (some "T100ms") = none := by decide

/-! ## Setters (V4) -/

theorem test_setmeas_ok : left (.setmeas .continuous) (block 0x00#8 [.ok]) =
    some (0x80#8, .ok, [(.write 0x4A#7 [0x02#8, 0x80#8], .ok)]) := by decide
theorem test_setmeas_failed : left (.setmeas .continuous) (block 0x00#8 [.err someError]) =
    some (0x00#8, .errTransport someError, [(.write 0x4A#7 [0x02#8, 0x80#8], .err someError)]) := by decide
theorem test_setcfgm_automatic : left (.setcfgm .automatic) (block 0x4B#8 [.ok]) =
    some (0x0B#8, .ok, [(.write 0x4A#7 [0x02#8, 0x0B#8], .ok)]) := by decide
theorem test_setcdr_open : left (.setcdr .one) (block 0xCF#8 [.ok]) =
    some (0xC7#8, .ok, [(.write 0x4A#7 [0x02#8, 0xC7#8], .ok)]) := by decide
theorem test_setcdr_closed : left (.setcdr .one) (block 0x0B#8 [.ok]) = some (0x0B#8, .errNotAvailable, []) := by decide
theorem test_settim_replaces : left (.settim .t100ms) (block 0x47#8 [.ok]) =
    some (0x43#8, .ok, [(.write 0x4A#7 [0x02#8, 0x43#8], .ok)]) := by decide
theorem test_settim_closed : left (.settim .t50ms) (block 0x87#8 [.ok]) = some (0x87#8, .errNotAvailable, []) := by decide
theorem test_setinten_enable : left (.setinten true) (block 0x4B#8 [.ok]) =
    some (0x4B#8, .ok, [(.write 0x4A#7 [0x01#8, 0x01#8], .ok)]) := by decide
theorem test_setinten_failed : left (.setinten false) (block 0x00#8 [.err someError]) =
    some (0x00#8, .errTransport someError, [(.write 0x4A#7 [0x01#8, 0x00#8], .err someError)]) := by decide

/-! ## Readers (V6) -/

theorem test_rdlux : left .rdlux (block 0x00#8 [.data [0xEF#8, 0x0F#8]]) =
    some (0x00#8, .okLux 4177920 0x4837999A#32, [(.writeRead 0x4A#7 [0x03#8] 2, .data [0xEF#8, 0x0F#8])]) := by decide
theorem test_rdlux_failed : left .rdlux (block 0x05#8 [.err someError]) =
    some (0x05#8, .errTransport someError, [(.writeRead 0x4A#7 [0x03#8] 2, .err someError)]) := by decide
theorem test_rdtim : left .rdtim (block 0x00#8 [.data [0xB5#8]]) =
    some (0x00#8, .okTim .t25ms, [(.writeRead 0x4A#7 [0x02#8] 1, .data [0xB5#8])]) := by decide
theorem test_rdcdr : left .rdcdr (block 0x08#8 [.data [0xF7#8]]) =
    some (0x08#8, .okCdr .one, [(.writeRead 0x4A#7 [0x02#8] 1, .data [0xF7#8])]) := by decide
theorem test_rdint : left .rdint (block 0x00#8 [.data [0x80#8]]) =
    some (0x00#8, .okBool true, [(.writeRead 0x4A#7 [0x00#8] 1, .data [0x80#8])]) := by decide
theorem test_rdint_clear : left .rdint (block 0x00#8 [.data [0x00#8]]) =
    some (0x00#8, .okBool false, [(.writeRead 0x4A#7 [0x00#8] 1, .data [0x00#8])]) := by decide

/-! ## The lux decoder (V5) -/

theorem test_lux_rounding : luxDecode 0x12#8 0x34#8 = (72, 0x404F5C2A#32) := by decide
theorem test_lux_rounding_f64 : luxScaleUnder .f64 72 = 0x404F5C29#32 := by decide
theorem test_lux_low_byte_high_nibble : luxDecode 0x00#8 0xF1#8 = (1, 0x3D3851EC#32) := by decide
theorem test_lux_no_clamp : luxDecode 0xFF#8 0xF9#8 = (8159232, 0x48B347AF#32) := by decide
/-- 0.045 lies within half a unit in the last place of each constant (R86; 93 G3; log 9). -/
theorem test_luxC_nearest : 2 * ((3019899 * 4 * 1000 : Int) - 45 * 2 ^ 28).natAbs ≤ 1000 := by decide
theorem test_luxC64_nearest :
    2 * ((significandOf binary64 Config.luxC64.toNat * 1000 : Nat) - (45 * 2 ^ 57 : Int)).natAbs ≤ 1000 ∧
      exponentOf binary64 Config.luxC64.toNat = -57 := by decide
/-- Rounding to even, subnormals, overflow and the sign of `mul_f32`, worked by hand from IEEE 754. -/
theorem test_mul_tie_to_even : mulF32 0x00000001#32 0x3F000000#32 = 0#32 := by decide
theorem test_mul_overflow : mulF32 0x7F7FFFFF#32 0xC0000000#32 = 0xFF800000#32 := by decide

/-! ## Life cycle (V7, S10) -/

theorem test_resolve_alternative : (State.create (.alternative true)).devAddr = 0x4B#7 := by decide
theorem test_release : left .release (block 0x40#8 []) = some (0x40#8, .okReleased, []) ∧
    (after (exec .release (block 0x40#8 []))).map (fun t => t.life) = some .released := by decide
theorem test_illegal_word_marks : (after (step ((block 0x40#8 []).handOver 0x48#8))).map (fun t => (t.refused, t.result)) =
    some (some .illegalCommand, .none) := by decide
theorem test_after_release_first : (after (step (({ block 0x40#8 [] with life := .released } : State).handOver 0xB3#8))).map
    (fun t => t.refused) = some (some .afterRelease) := by decide
theorem test_no_command : step State.reset = .fault .noCommand := rfl
theorem test_placed_word_runs : step (State.reset.withFetchWord 8 0xA0) = exec .release State.reset := rfl

/-! ## Witnesses: for each statement with hypotheses, a state and operands that meet them -/

/-- A block in manual mode, as one successful SETCFGM Manual leaves it. -/
def manual : State :=
  { State.create .default with
    cfg := 0x40#8
    result := .ok
    busLog := [(.write 0x4A#7 [0x02#8, 0x40#8], .ok)]
    answers := [.ok]
    host := [.word 0x31#8] }

theorem manual_inv : BlockInv manual where
  reservedClear := by decide
  addressKnown := by decide
  cfgIsLastWritten := by decide
  logLegal := by decide
  releasedResult := by decide
  afterReleaseMark := by decide
  freshLogEmpty := by decide

theorem manual_words : wordsOnly manual := by
  intro x hx
  exact ⟨0x31#8, by simpa [manual] using hx⟩

def released : State := { manual with life := .released, result := .okReleased }
def failing : State := { manual with answers := [.err someError] }

theorem test_witness_DecodeOfEncode : (Instr.settim .t25ms).wellFormed = true := by decide
theorem test_witness_EncodeOfDecode : decodeWord 0x45#8 = .ok (.settim .t25ms) := by decide
theorem test_witness_DecodeFollowsPatterns : decodeWord 0x31#8 = .ok (.setcdr .oneEighth) := by decide
theorem test_witness_DecodeAgreesWithOpcodeMap :
    decodeWord 0x31#8 = .ok (.setcdr .oneEighth) ∧ ⟨"SETCDR", 0x30#8, 0xFE#8⟩ ∈ opcodeMap ∧
      (⟨"SETCDR", 0x30#8, 0xFE#8⟩ : OpRow).accepts 0x31#8 = true := by decide
theorem test_witness_IllegalWordsByClass :
    (manual.handOver 0x48#8).host = .word 0x48#8 :: manual.host ∧ (manual.handOver 0x48#8).life = .live ∧
      decodeWord 0x48#8 = .error .f3OperandReserved ∧ manual.refused = none ∧
      (refuse .afterRelease manual).refused = some .afterRelease := by decide
theorem test_witness_FieldCodesRoundTrip : encTim .t50ms = 4#3 := by decide
theorem test_witness_AssemblerLines : assembleLine "SETCDR" (some "One") = some 0x30#8 := by decide
theorem test_witness_CreationStep :
    ({ released with host := [.create (.alternative true)] } : State).host = .create (.alternative true) :: [] := rfl
theorem test_witness_StepRunsDecodedCommand :
    manual.host = .word 0x31#8 :: [] ∧ manual.life = .live ∧ (Instr.setcdr .oneEighth).wellFormed = true ∧
      decodeWord 0x31#8 = .ok (.setcdr .oneEighth) := by decide
theorem test_witness_PlacedWordRunsNext : manual.life = .live ∧ decodeTableWord 8 0x60 = some .rdlux := by decide
theorem test_witness_RefusedStepOnlyMarks_released : released.host = .word 0x31#8 :: [] ∧ released.life = .released := by decide
theorem test_witness_RefusedStepOnlyMarks_illegal :
    ({ manual with host := [.word 0x00#8] } : State).host = .word 0x00#8 :: [] ∧ manual.life = .live ∧
      decodeWord 0x00#8 = .error .opcodeUnassigned := by decide
theorem test_witness_RefusedStepOnlyMarks_command : ∃ t, exec (.setcdr .one) manual = .next t := ⟨_, rfl⟩
theorem test_witness_StopsOnlyWithoutInput : State.reset.host = [] ∧ manual.host ≠ [] := by decide
theorem test_witness_ReleasedForever : released.life = .released ∧ wordsOnly released ∧ 1 ≤ released.host.length :=
  ⟨rfl, manual_words, by decide⟩
theorem test_witness_PackUnpack : (0xCF#8 &&& 0x30#8 = 0#8) ∧ BlockInv manual := ⟨by decide, manual_inv⟩
theorem test_witness_PackUnpack_injective :
    pack ⟨.continuous, .manual, .one, .t25ms⟩ = pack ⟨.continuous, .manual, .one, .t25ms⟩ := rfl
theorem test_witness_SetterSetsOneField : manual.writeAnswer = .ok ∧ (unpack manual.cfg).cfgm = .manual := by decide
theorem test_witness_OnlyConfigWriteChangesCfg : ∃ t, exec (.setcdr .oneEighth) manual = .next t ∧ t.cfg ≠ manual.cfg ∧
    t.busLog = manual.busLog ++ [(.write 0x4A#7 [0x02#8, 0x48#8], .ok)] := ⟨_, rfl, by decide, by decide⟩
theorem test_witness_OnlyConfigWriteChangesCfg_failed : ∃ t, exec (.setcdr .oneEighth) failing = .next t ∧
    t.busLog = failing.busLog ++ [(.write 0x4A#7 [0x02#8, 0x48#8], .err someError)] := ⟨_, rfl, by decide⟩
theorem test_witness_ManualGuard : guarded (.settim .t25ms) = true ∧ (block 0x85#8 []).cfg.getLsbD 6 = false ∧
    ∃ t, exec (.settim .t25ms) (block 0x85#8 []) = .next t ∧ t.result = .errNotAvailable :=
  ⟨by decide, by decide, _, rfl, by decide⟩
theorem test_witness_SetmeasWritesBit7 : manual.writeAnswer = .ok ∧ failing.writeAnswer = .err someError := by decide
theorem test_witness_SetcfgmWritesBit6 : ∃ t, exec (.setcfgm .manual) (block 0x85#8 [.ok]) = .next t ∧
    (block 0x85#8 [.ok]).cfg.getLsbD 6 = false ∧ t.cfg.getLsbD 6 = true := ⟨_, rfl, by decide, by decide⟩
theorem test_witness_SetcdrWritesBit3 : (block 0x85#8 []).cfg.getLsbD 6 = false ∧ manual.cfg.getLsbD 6 = true ∧
    BlockInv manual := ⟨by decide, by decide, manual_inv⟩
theorem test_witness_SettimWritesBits2To0 : (block 0x85#8 []).cfg.getLsbD 6 = false ∧ manual.cfg.getLsbD 6 = true := by decide
theorem test_witness_SetintenWritesIntEnable : manual.writeAnswer = .ok ∧ failing.writeAnswer = .err someError := by decide
theorem test_witness_SettersFrame : Instr.setinten true ∉ [Instr.rdlux, .rdtim, .rdcdr, .rdint, .release] := by decide
theorem test_witness_LuxCountExact : 8355840 < 2 ^ 24 ∧ 2 ^ 24 - 1 < 2 ^ 24 := by decide
theorem test_witness_RdluxResult : (block 0x00#8 [.data [0xEF#8, 0x0F#8]]).readAnswer 2 = .data #v[0xEF#8, 0x0F#8] ∧
    failing.readAnswer 2 = .err someError := ⟨rfl, rfl⟩
theorem test_witness_RdtimResult : (block 0x00#8 [.data [0x43#8]]).readAnswer 1 = .data #v[0x43#8] ∧
    failing.readAnswer 1 = .err someError := ⟨rfl, rfl⟩
theorem test_witness_RdcdrResult : (block 0x00#8 [.data [0x48#8]]).readAnswer 1 = .data #v[0x48#8] ∧
    failing.readAnswer 1 = .err someError := ⟨rfl, rfl⟩
theorem test_witness_RdintResult : (block 0x00#8 [.data [0x00#8]]).readAnswer 1 = .data #v[0x00#8] ∧
    failing.readAnswer 1 = .err someError := ⟨rfl, rfl⟩
theorem test_witness_ReadersFrame : Instr.rdint ∈ [Instr.rdlux, .rdtim, .rdcdr, .rdint] := by decide
theorem test_witness_ReleaseEffect : manual.host = .word 0x31#8 :: [] := rfl
theorem test_witness_FailedCommandKeepsState : ∃ t, exec .rdlux failing = .next t ∧ t.result = .errTransport someError ∧
    t.busLog = failing.busLog ++ [(.writeRead 0x4A#7 [0x03#8] 2, .err someError)] := ⟨_, rfl, by decide, by decide⟩
theorem test_witness_FailedCommandKeepsState_guard : ∃ t, exec (.setcdr .one) (block 0x00#8 []) = .next t ∧
    t.result = .errNotAvailable := ⟨_, rfl, by decide⟩
theorem test_witness_RequestOfEachCommand : ∃ t, exec (.settim .t25ms) manual = .next t ∧ manual.cfg.getLsbD 6 = true :=
  ⟨_, rfl, by decide⟩
theorem test_witness_DevAddrFixed : ∃ t, exec .rdint manual = .next t := ⟨_, rfl⟩
theorem test_witness_DevAddrFixed_step : manual.host = .word 0x31#8 :: [] ∧ ∃ t, step manual = .next t := ⟨rfl, _, rfl⟩
theorem test_witness_LogGrowsInOrder : wordsOnly manual ∧ ∃ t, core.run 1 manual = .next t := ⟨manual_words, _, rfl⟩
/-- SETCFGM Automatic succeeds, then SETCDR One fails: no SETCFGM Manual has succeeded since. -/
theorem test_witness_SetcfgmWritesBit6_automatic : ∃ t u, manual.writeAnswer = .ok ∧
    exec (.setcfgm .automatic) manual = .next t ∧ RunWithoutManual t u ∧ u ≠ t ∧ guarded (.setcdr .one) = true :=
  ⟨_, _, by decide, rfl, .command (.setcdr .one) _ _ _ rfl (by decide) (.none _), by decide, by decide⟩
/-- A block over the error type Bool, whose next request fails; a function that joins its two error values. -/
def boolBlock : Generic.State Bool :=
  { Generic.State.create .default with answers := [.err true], host := [.word 0x60#8] }
def joined : Bool → Unit := fun _ => ()
theorem test_generic_error : Generic.exec .rdlux boolBlock = .next { boolBlock with
    result := .errTransport true
    busLog := [(.writeRead 0x4A#7 [0x03#8] 2, .err true)]
    answers := []
    draws := 1 } := rfl
theorem test_witness_ErrorValuesUninterpreted : answerRenamed joined boolBlock (.setmeas .continuous) ∧
    answerRenamed joined boolBlock .rdlux ∧ answerRenamed joined boolBlock .rdint := ⟨rfl, rfl, rfl⟩
theorem test_witness_ErrorValuesUninterpreted_step :
    (∀ w rest i, boolBlock.host = .word w :: rest → decodeWord w = .ok i → answerRenamed joined boolBlock i) ∧
      ∃ t, Generic.step boolBlock = .next t :=
  ⟨fun _ _ i _ _ => by cases i <;> first | exact rfl | trivial, _, rfl⟩
theorem test_witness_ErrorTypeIsParameter :
    (Generic.State.create .default : Generic.State Empty).host = [] ∧ boolBlock.host ≠ [] := by decide
theorem test_witness_OracleAnswersAreFree :
    manual.answers = (block 0x00#8 [.ok]).answers ∧ manual.draws = (block 0x00#8 [.ok]).draws := by decide
theorem test_witness_LuxScaleProperties : luxMantissa 0x00#8 0x01#8 ≠ 0 ∧ 16 ≤ 8355840 := by decide
/-- At count 7 the exact product lies halfway between two binary32 values. -/
theorem test_witness_LuxRoundsToNearestEven : 7 < 2 ^ 24 ∧ 1050757039 < 0x7F800000 ∧
    (luxScaleUnder .f32 7).toNat = 1050757038 ∧
    (significandOf binary32 1050757038 * 2 ^ (exponentOf binary32 1050757038 + 149).toNat : Nat) +
      (significandOf binary32 1050757039 * 2 ^ (exponentOf binary32 1050757039 + 149).toNat : Nat) =
        2 * (7 * 3019899 * 2 ^ 123) := by decide
theorem test_witness_LuxAssociation : 15 < 16 ∧ 249 < 256 := by decide
theorem test_witness_InvKeptByEveryStep : BlockInv manual ∧ ∃ t, step manual = .next t := ⟨manual_inv, _, rfl⟩
theorem test_witness_ReachableCfgExact : (0x8F#8 &&& 0x30#8 = 0#8) ∧
    ∃ t, core.run 1 ((State.create .default).withInputs [0x21#8] [.ok]) = .next t := ⟨by decide, _, rfl⟩

end Sys2Proof.Tests
end

/-! PROOF. What every command does to the state: it completes, it makes at most one request to `DEV_ADDR` (R24), and it
reads no observation field (R13, R17). -/

namespace Sys2Proof.Proofs

open Sys2Proof.Machine Sys2Proof.Laws

variable {E : Type}

/-! ## Every command completes, in the state that its body leaves -/

/-- The state that command `i` leaves. -/
def commandEffect (i : Instr) (s : Generic.State E) : Generic.State E :=
  match i with
  | .setmeas m => writeConfig (upd1 s.cfg measBit (encMeas m)) s
  | .setcfgm c => writeConfig (upd1 s.cfg manualBit (encCfgm c)) s
  | .setcdr r => guardManual (writeConfig (upd1 s.cfg cdrBit (encCdr r))) s
  | .settim t => guardManual (writeConfig (updTim s.cfg (encTim t))) s
  | .setinten b => writeIntEnable b s
  | .rdlux => readRegister Config.luxHigh 2 luxResult s
  | .rdtim => readRegister Config.configuration 1 timResult s
  | .rdcdr => readRegister Config.configuration 1 cdrResult s
  | .rdint => readRegister Config.intStatus 1 intResult s
  | .release => returning .okReleased { s with life := .released }

theorem exec_eq_next_commandEffect (i : Instr) (s : State) : exec i s = .next (commandEffect i s) := by
  cases i <;> rfl

theorem exec_eq_next_iff (i : Instr) (s t : State) : exec i s = .next t ↔ commandEffect i s = t := by
  rw [exec_eq_next_commandEffect, Host.Outcome.next.injEq]

/-- What a word's step can answer as a next state: a refusal, or what the decoded command leaves (R66, R96, R98). -/
theorem stepWord_eq_next_cases {run : Instr → Generic.State E → StepOutcome E} {w : Byte} {s t : Generic.State E}
    (h : stepWord run w s = .next t) :
    (s.life = .released ∧ t = refuse .afterRelease s) ∨
    (s.life = .live ∧ (∃ e, decodeWord w = .error e) ∧ t = refuse .illegalCommand s) ∨
    (s.life = .live ∧ ∃ i, decodeWord w = .ok i ∧ run i s = .next t) := by
  unfold stepWord at h
  split at h
  next hl => cases h; exact .inl ⟨hl, rfl⟩
  next hl =>
    split at h
    next e hd => cases h; exact .inr (.inl ⟨hl, ⟨e, hd⟩, rfl⟩)
    next i hd => exact .inr (.inr ⟨hl, i, hd, h⟩)

/-! ## The writers' bodies, in one equation each -/

/-- The result a writer makes of an answer. -/
def writeResult : WriteAnswer E → Result E
  | .ok => .ok
  | .err e => .errTransport e

/-- What `CFG` holds after a configuration write of `v` to a block that holds `c` (R74). -/
def cfgAfterWrite (v c : Byte) : WriteAnswer E → Byte
  | .ok => v
  | .err _ => c

/-- `s` after a writer that writes `v` to `reg` and leaves `CFG` at `c`. -/
def afterWrite (s : Generic.State E) (reg v c : Byte) : Generic.State E :=
  { s.logged (.write s.devAddr [reg, v]) s.writeAnswer.toBus with cfg := c, result := writeResult s.writeAnswer }

theorem writeConfig_eq (v : Byte) (s : Generic.State E) :
    writeConfig v s = afterWrite s Config.configuration v (cfgAfterWrite v s.cfg s.writeAnswer) := by
  rcases writeConfig_cases v s with ⟨ha, h⟩ | ⟨e, ha, h⟩ <;> rw [h, afterWrite, ha] <;> rfl

theorem writeIntEnable_eq (b : Bool) (s : Generic.State E) :
    writeIntEnable b s = afterWrite s Config.intEnable (encInten b) s.cfg := by
  rcases writeIntEnable_cases b s with ⟨ha, h⟩ | ⟨e, ha, h⟩ <;> rw [h, afterWrite, ha] <;> rfl

/-- The guard either raises `ErrNotAvailable` or lets the body run (R75). -/
theorem guardManual_cases (body : Generic.State E → Generic.State E) (s : Generic.State E) :
    guardManual body s = raising .notAvailable s ∨ guardManual body s = body s := by
  cases h : s.cfg.getLsbD 6 with
  | false => exact .inl (guardManual_closed body s h)
  | true => exact .inr (guardManual_open body s h)

/-! ## Requests go to `DEV_ADDR`, which stays (R24) -/

/-- The address of a request. -/
def requestAddr : BusReq → Addr7
  | .write addr _ => addr
  | .writeRead addr _ _ => addr

/-- `t` comes from `s` with `DEV_ADDR` kept and at most one request, which goes to it. -/
def KeepsAddress (s t : Generic.State E) : Prop :=
  t.devAddr = s.devAddr ∧
    (t.busLog = s.busLog ∨ ∃ q a, t.busLog = s.busLog ++ [(q, a)] ∧ requestAddr q = s.devAddr)

theorem writeConfig_keepsAddress (v : Byte) (s : Generic.State E) : KeepsAddress s (writeConfig v s) := by
  rw [writeConfig_eq]
  exact ⟨rfl, .inr ⟨_, _, rfl, rfl⟩⟩

theorem writeIntEnable_keepsAddress (b : Bool) (s : Generic.State E) : KeepsAddress s (writeIntEnable b s) := by
  rw [writeIntEnable_eq]
  exact ⟨rfl, .inr ⟨_, _, rfl, rfl⟩⟩

theorem readRegister_keepsAddress (reg : Byte) (n : Nat) (value : Vector Byte n → Result E) (s : Generic.State E) :
    KeepsAddress s (readRegister reg n value s) := by
  rw [readRegister_eq]
  exact ⟨rfl, .inr ⟨_, _, rfl, rfl⟩⟩

theorem guardManual_keepsAddress {body : Generic.State E → Generic.State E} {s : Generic.State E}
    (h : KeepsAddress s (body s)) : KeepsAddress s (guardManual body s) := by
  rcases guardManual_cases body s with hg | hg <;> rw [hg]
  · exact ⟨rfl, .inl rfl⟩
  · exact h

theorem commandEffect_keepsAddress (i : Instr) (s : Generic.State E) : KeepsAddress s (commandEffect i s) := by
  cases i with
  | setmeas m => exact writeConfig_keepsAddress _ s
  | setcfgm c => exact writeConfig_keepsAddress _ s
  | setcdr r => exact guardManual_keepsAddress (writeConfig_keepsAddress _ s)
  | settim t => exact guardManual_keepsAddress (writeConfig_keepsAddress _ s)
  | setinten b => exact writeIntEnable_keepsAddress b s
  | rdlux => exact readRegister_keepsAddress _ _ _ s
  | rdtim => exact readRegister_keepsAddress _ _ _ s
  | rdcdr => exact readRegister_keepsAddress _ _ _ s
  | rdint => exact readRegister_keepsAddress _ _ _ s
  | release => exact ⟨rfl, .inl rfl⟩

/-- A refusal changes the mark only, so a word keeps `DEV_ADDR` because every command does. -/
theorem stepWord_devAddr {w : Byte} {s t : State} (h : stepWord exec w s = .next t) : t.devAddr = s.devAddr := by
  rcases stepWord_eq_next_cases h with ⟨-, rfl⟩ | ⟨-, -, rfl⟩ | ⟨-, i, -, hi⟩
  · rfl
  · rfl
  · rw [← (exec_eq_next_iff i s t).mp hi]
    exact (commandEffect_keepsAddress i s).left

/-- Settles O38: each command's body keeps the address and sends its request to it, and a refused word changes the mark
only. -/
theorem devAddrFixed : Obligations.DevAddrFixed := by
  refine ⟨fun i s t h => ?_, fun s t w rest hw h => ?_⟩
  · obtain rfl := (exec_eq_next_iff i s t).mp h
    obtain ⟨haddr, hlog | ⟨q, a, hlog, hq⟩⟩ := commandEffect_keepsAddress i s
    · exact ⟨haddr, .inl hlog⟩
    · exact ⟨haddr, .inr ⟨q, a, hlog, by cases q <;> exact hq⟩⟩
  · rw [step_word s w rest hw] at h
    exact (stepWord_devAddr h :)

/-! ## No observation field is read (R13, R17) -/

/-- `s` with other contents of the last result, the log and the mark. -/
def reobserved (r : Result E) (log : List (BusReq × BusAnswer E)) (mark : Option RefuseReason) (s : Generic.State E) :
    Generic.State E :=
  { s with result := r, busLog := log, refused := mark }

/-- Whatever the observation fields hold, `body` sets the same result, appends the same entries to the log, keeps the
mark, and leaves the same in every other field. -/
def ReadsNoObservation (body : Generic.State E → Generic.State E) : Prop :=
  ∀ s r log mark, ∃ new, (body s).busLog = s.busLog ++ new ∧
    body (reobserved r log mark s) = { body s with busLog := log ++ new, refused := mark }

theorem raising_readsNoObservation (x : CommandError E) : ReadsNoObservation (raising x) :=
  fun s _ log _ => ⟨[], by simp, by simp [raising, reobserved]⟩

theorem writeConfig_readsNoObservation (v : Byte) : ReadsNoObservation (writeConfig (E := E) v) := by
  intro s r log mark
  refine ⟨[(.write s.devAddr [Config.configuration, v], s.writeAnswer.toBus)], ?_, ?_⟩
  · rw [writeConfig_eq]; rfl
  · rw [writeConfig_eq, writeConfig_eq]; rfl

theorem writeIntEnable_readsNoObservation (b : Bool) : ReadsNoObservation (writeIntEnable (E := E) b) := by
  intro s r log mark
  refine ⟨[(.write s.devAddr [Config.intEnable, encInten b], s.writeAnswer.toBus)], ?_, ?_⟩
  · rw [writeIntEnable_eq]; rfl
  · rw [writeIntEnable_eq, writeIntEnable_eq]; rfl

theorem readRegister_readsNoObservation (reg : Byte) (n : Nat) (value : Vector Byte n → Result E) :
    ReadsNoObservation (readRegister reg n value) := by
  intro s r log mark
  refine ⟨[(.writeRead s.devAddr [reg] n, (s.readAnswer n).toBus)], ?_, ?_⟩
  · rw [readRegister_eq]; rfl
  · rw [readRegister_eq, readRegister_eq]; rfl

/-- The guard reads `CFG` alone, so it takes the same branch. -/
theorem guardManual_readsNoObservation {body : Generic.State E → Generic.State E} (h : ReadsNoObservation body) :
    ReadsNoObservation (guardManual body) := by
  intro s r log mark
  cases hc : s.cfg.getLsbD 6 with
  | false =>
    rw [guardManual_closed body s hc, guardManual_closed body (reobserved r log mark s) hc]
    exact raising_readsNoObservation .notAvailable s r log mark
  | true =>
    rw [guardManual_open body s hc, guardManual_open body (reobserved r log mark s) hc]
    exact h s r log mark

theorem release_readsNoObservation : ReadsNoObservation (commandEffect (E := E) .release) :=
  fun s _ log _ => ⟨[], by simp [commandEffect], by simp [commandEffect, returning, reobserved]⟩

/-- `CFG` is no observation field, so the byte that a setter makes from it is the same whatever they hold. -/
theorem commandEffect_readsNoObservation (i : Instr) : ReadsNoObservation (commandEffect (E := E) i) := by
  cases i with
  | setmeas m => exact fun s => writeConfig_readsNoObservation (upd1 s.cfg measBit (encMeas m)) s
  | setcfgm c => exact fun s => writeConfig_readsNoObservation (upd1 s.cfg manualBit (encCfgm c)) s
  | setcdr r =>
    exact fun s => guardManual_readsNoObservation (writeConfig_readsNoObservation (upd1 s.cfg cdrBit (encCdr r))) s
  | settim t =>
    exact fun s => guardManual_readsNoObservation (writeConfig_readsNoObservation (updTim s.cfg (encTim t))) s
  | setinten b => exact writeIntEnable_readsNoObservation b
  | rdlux => exact readRegister_readsNoObservation _ _ _
  | rdtim => exact readRegister_readsNoObservation _ _ _
  | rdcdr => exact readRegister_readsNoObservation _ _ _
  | rdint => exact readRegister_readsNoObservation _ _ _
  | release => exact release_readsNoObservation

/-- Settles O40: each command's body reads no observation field. -/
theorem commandsReadNoObservation : Obligations.CommandsReadNoObservation := by
  intro i s r log mark
  obtain ⟨new, hlog, heq⟩ := commandEffect_readsNoObservation i s r log mark
  refine ⟨commandEffect i s, new, exec_eq_next_commandEffect i s, hlog, ?_⟩
  rw [← heq]
  exact exec_eq_next_commandEffect i (reobserved r log mark s)

end Sys2Proof.Proofs

/-! PROOF. The one request of each command (R36, R40), and that each command completes with a result (R103). -/

namespace Sys2Proof.Proofs

open Sys2Proof.Machine Sys2Proof.Laws

variable {E : Type}

/-! ## Every command completes with a result (R103) -/

/-- `t` comes from `s` with a result set and `LIFE` kept. -/
def SetsResult (s t : Generic.State E) : Prop := t.result ≠ .none ∧ t.life = s.life

theorem writeResult_ne_none (a : WriteAnswer E) : writeResult a ≠ .none := by
  cases a <;> exact nofun

theorem readResult_ne_none {n : Nat} {value : Vector Byte n → Result E} (hv : ∀ bytes, value bytes ≠ .none)
    (a : ReadAnswer E n) : readResult value a ≠ .none := by
  cases a with
  | data bytes => exact hv bytes
  | err e => exact nofun

theorem luxResult_ne_none (bytes : Vector Byte 2) : (luxResult bytes : Result E) ≠ .none := by simp [luxResult]
theorem timResult_ne_none (bytes : Vector Byte 1) : (timResult bytes : Result E) ≠ .none := by simp [timResult]
theorem cdrResult_ne_none (bytes : Vector Byte 1) : (cdrResult bytes : Result E) ≠ .none := by simp [cdrResult]
theorem intResult_ne_none (bytes : Vector Byte 1) : (intResult bytes : Result E) ≠ .none := by simp [intResult]

theorem writeConfig_setsResult (v : Byte) (s : Generic.State E) : SetsResult s (writeConfig v s) := by
  rw [writeConfig_eq]
  exact ⟨writeResult_ne_none s.writeAnswer, rfl⟩

theorem writeIntEnable_setsResult (b : Bool) (s : Generic.State E) : SetsResult s (writeIntEnable b s) := by
  rw [writeIntEnable_eq]
  exact ⟨writeResult_ne_none s.writeAnswer, rfl⟩

theorem readRegister_setsResult (reg : Byte) {n : Nat} {value : Vector Byte n → Result E}
    (hv : ∀ bytes, value bytes ≠ .none) (s : Generic.State E) : SetsResult s (readRegister reg n value s) := by
  rw [readRegister_eq]
  exact ⟨readResult_ne_none hv (s.readAnswer n), rfl⟩

theorem guardManual_setsResult {body : Generic.State E → Generic.State E} {s : Generic.State E}
    (h : SetsResult s (body s)) : SetsResult s (guardManual body s) := by
  rcases guardManual_cases body s with hg | hg <;> rw [hg]
  · exact ⟨nofun, rfl⟩
  · exact h

/-- RELEASE alone sets `LIFE` (R70). -/
theorem commandEffect_result_life (i : Instr) (s : Generic.State E) :
    (commandEffect i s).result ≠ .none ∧
      (commandEffect i s).life = (if i = .release then .released else s.life) := by
  cases i with
  | setmeas m => exact writeConfig_setsResult _ s
  | setcfgm c => exact writeConfig_setsResult _ s
  | setcdr r => exact guardManual_setsResult (writeConfig_setsResult _ s)
  | settim t => exact guardManual_setsResult (writeConfig_setsResult _ s)
  | setinten b => exact writeIntEnable_setsResult b s
  | rdlux => exact readRegister_setsResult _ luxResult_ne_none s
  | rdtim => exact readRegister_setsResult _ timResult_ne_none s
  | rdcdr => exact readRegister_setsResult _ cdrResult_ne_none s
  | rdint => exact readRegister_setsResult _ intResult_ne_none s
  | release => exact ⟨nofun, rfl⟩

/-- Settles O16: each command answers the state that its body leaves, and every body sets a result. -/
theorem everyCommandCompletes : Obligations.EveryCommandCompletes :=
  fun i s => ⟨commandEffect i s, exec_eq_next_commandEffect i s, commandEffect_result_life i s⟩

/-! ## The one request of each command (R36, R40) -/

theorem writeConfig_busLog (v : Byte) (s : Generic.State E) :
    (writeConfig v s).busLog =
      s.busLog ++ [(.write s.devAddr [Config.configuration, v], s.writeAnswer.toBus)] := by
  rw [writeConfig_eq]; rfl

theorem writeIntEnable_busLog (b : Bool) (s : Generic.State E) :
    (writeIntEnable b s).busLog =
      s.busLog ++ [(.write s.devAddr [Config.intEnable, encInten b], s.writeAnswer.toBus)] := by
  rw [writeIntEnable_eq]; rfl

theorem readRegister_busLog (reg : Byte) (n : Nat) (value : Vector Byte n → Result E) (s : Generic.State E) :
    (readRegister reg n value s).busLog =
      s.busLog ++ [(.writeRead s.devAddr [reg] n, (s.readAnswer n).toBus)] := by
  rw [readRegister_eq]; rfl

/-- A guarded configuration write issues its request exactly with bit 6 of `CFG` set (R75). -/
theorem guardManual_writeConfig_request (v : Byte) (s : Generic.State E) :
    if s.cfg.getLsbD 6 then
      ∃ v' a, (guardManual (writeConfig v) s).busLog =
        s.busLog ++ [(.write s.devAddr [Config.configuration, v'], a)]
    else (guardManual (writeConfig v) s).busLog = s.busLog := by
  split
  next hopen =>
    rw [guardManual_open _ s hopen]
    exact ⟨v, _, writeConfig_busLog v s⟩
  next hclosed =>
    rw [guardManual_closed _ s (Bool.eq_false_of_not_eq_true hclosed)]

/-- Settles O37: the body of each command appends its request whatever the byte written is. -/
theorem requestOfEachCommand : Obligations.RequestOfEachCommand := by
  intro i s t h
  obtain rfl := (exec_eq_next_iff i s t).mp h
  cases i with
  | setmeas m => exact ⟨_, _, writeConfig_busLog _ s⟩
  | setcfgm c => exact ⟨_, _, writeConfig_busLog _ s⟩
  | setcdr r => exact guardManual_writeConfig_request _ s
  | settim t => exact guardManual_writeConfig_request _ s
  | setinten b => exact ⟨_, _, writeIntEnable_busLog b s⟩
  | rdlux => exact ⟨_, readRegister_busLog _ _ _ s⟩
  | rdtim => exact ⟨_, readRegister_busLog _ _ _ s⟩
  | rdcdr => exact ⟨_, readRegister_busLog _ _ _ s⟩
  | rdint => exact ⟨_, readRegister_busLog _ _ _ s⟩
  | release => rfl

end Sys2Proof.Proofs

/-! PROOF. The encodings of 30_encoding.md: the decoder by its patterns (R63), the illegal words by their classes (R64), the
codes of the operand values (R53 to R56), and the bits that the updates of `CFG` change (R48, R71, R72). -/

namespace Sys2Proof.Proofs

open Sys2Proof.Machine Sys2Proof.Laws

/-! ## The codes of the operand values (R53 to R56) -/

@[simp] theorem decTim_encTim (t : IntegrationTime) : decTim (encTim t) = t := by cases t <;> rfl

@[simp] theorem encTim_decTim (k : BitVec 3) : encTim (decTim k) = k := by revert k; decide

@[simp] theorem decCdr_encCdr (r : CurrentDivisionRatio) : decCdr (encCdr r) = r := by cases r <;> rfl

theorem decInt_iff (s : Byte) : decInt s = true ↔ s ≠ 0x00#8 := bne_iff_ne

/-- Settles O7: `dec_tim` inverts `enc_tim`, so a time with code `k` is `dec_tim k`. -/
theorem fieldCodesRoundTrip : Obligations.FieldCodesRoundTrip := by
  refine ⟨decTim_encTim, encTim_decTim, decCdr_encCdr, ?_, rfl, rfl, decInt_iff⟩
  rintro _ t rfl
  exact (decTim_encTim t).symm

/-! ## The bits that the updates change (R48, R71, R72) -/

theorem masks_partition (j : Nat) (hj : j < 8) :
    ([measBit, manualBit, reservedMask, cdrBit, timMask].filter (fun m => m.getLsbD j)).length = 1 := by
  revert j; decide

/-- Setting and clearing with a mask leave the bits outside it as they are. -/
theorem upd1_getLsbD (c mask : Byte) (b : BitVec 1) (j : Nat) :
    (upd1 c mask b).getLsbD j = if mask.getLsbD j then (b == 1#1) else c.getLsbD j := by
  by_cases hb : b = 1#1
  · cases hm : mask.getLsbD j <;> simp [upd1, hb, hm]
  · cases hm : mask.getLsbD j with
    | true => simp [upd1, hb, hm]
    | false => simpa [upd1, hb, hm] using (BitVec.lt_of_getLsbD : c.getLsbD j = true → j < 8)

/-- TIM_MASK is the bits 2:0, the width of a time's code. -/
theorem timMask_getLsbD (j : Nat) : timMask.getLsbD j = decide (j < 3) := by
  rcases Nat.lt_or_ge j 8 with hj | hj
  · revert j; decide
  · rw [timMask.getLsbD_of_ge j hj, decide_eq_false (by omega)]

/-- The mask clears bits 2:0 of `c`, and a time's code has no other bit. -/
theorem updTim_getLsbD (c : Byte) (k : BitVec 3) (j : Nat) :
    (updTim c k).getLsbD j = if j < 3 then k.getLsbD j else c.getLsbD j := by
  split
  next hj =>
    have hj8 : j < 8 := by omega
    simp [updTim, timMask_getLsbD, hj, hj8]
  next hj =>
    have hk : k.getLsbD j = false := k.getLsbD_of_ge j (Nat.le_of_not_lt hj)
    have hlt : c.getLsbD j = true → j < 8 := BitVec.lt_of_getLsbD
    simpa [updTim, timMask_getLsbD, hj, hk] using hlt

/-- Settles O18, bit by bit. -/
theorem bitUpdates : Obligations.BitUpdates :=
  ⟨rfl, rfl, rfl, rfl, rfl, masks_partition, upd1_getLsbD, updTim_getLsbD⟩

/-! ## The decoder, format by format (R59) -/

/-! A word is its opcode, the operand bits that its format fixes, and its operand. -/

theorem word_eq_append_f1Operand (w : Byte) : w = w.extractLsb' 4 4 ++ w.extractLsb' 1 3 ++ f1Operand w := by
  have hhigh : w.extractLsb' 4 4 ++ w.extractLsb' 1 3 = w.extractLsb' 1 7 :=
    BitVec.extractLsb'_append_extractLsb'_eq_extractLsb' rfl
  have hall : w.extractLsb' 1 7 ++ f1Operand w = w.extractLsb' 0 8 :=
    BitVec.extractLsb'_append_extractLsb'_eq_extractLsb' rfl
  rw [hhigh, hall, BitVec.extractLsb'_eq_self]

theorem word_eq_append_f3Operand (w : Byte) : w = w.extractLsb' 4 4 ++ w.extractLsb' 3 1 ++ f3Operand w := by
  have hhigh : w.extractLsb' 4 4 ++ w.extractLsb' 3 1 = w.extractLsb' 3 5 :=
    BitVec.extractLsb'_append_extractLsb'_eq_extractLsb' rfl
  have hall : w.extractLsb' 3 5 ++ f3Operand w = w.extractLsb' 0 8 :=
    BitVec.extractLsb'_append_extractLsb'_eq_extractLsb' rfl
  rw [hhigh, hall, BitVec.extractLsb'_eq_self]

theorem word_eq_append_f0 (w : Byte) : w = w.extractLsb' 4 4 ++ w.extractLsb' 0 4 := by
  have hall : w.extractLsb' 4 4 ++ w.extractLsb' 0 4 = w.extractLsb' 0 8 :=
    BitVec.extractLsb'_append_extractLsb'_eq_extractLsb' rfl
  rw [hall, BitVec.extractLsb'_eq_self]

theorem decodeF1_eq_ok {w : Byte} {op : BitVec 4} {command : BitVec 1 → Instr} {i : Instr}
    (hop : w.extractLsb' 4 4 = op) (h : decodeF1 w command = .ok i) : w = op ++ 0#3 ++ f1Operand w := by
  unfold decodeF1 at h
  split at h
  next hfixed => rw [← hop, ← hfixed]; exact word_eq_append_f1Operand w
  next => cases h

theorem decodeF3_eq_ok {w : Byte} {op : BitVec 4} {command : BitVec 3 → Instr} {i : Instr}
    (hop : w.extractLsb' 4 4 = op) (h : decodeF3 w command = .ok i) : w = op ++ 0#1 ++ f3Operand w := by
  unfold decodeF3 at h
  split at h
  next hfixed => rw [← hop, ← hfixed]; exact word_eq_append_f3Operand w
  next => cases h

theorem decodeF0_eq_ok {w : Byte} {op : BitVec 4} {command i : Instr}
    (hop : w.extractLsb' 4 4 = op) (h : decodeF0 w command = .ok i) : w = op ++ 0#4 := by
  unfold decodeF0 at h
  split at h
  next hfixed => rw [← hop, ← hfixed]; exact word_eq_append_f0 w
  next => cases h

/-! ## Legal words: the patterns (R63) -/

/-- `w` is of one of the patterns of R63. -/
def FitsPattern (w : Byte) : Prop :=
  (∃ v : BitVec 1, w = 0b0001000#7 ++ v ∨ w = 0b0010000#7 ++ v ∨ w = 0b0011000#7 ++ v ∨ w = 0b0101000#7 ++ v) ∨
    (∃ t : BitVec 3, w = 0b01000#5 ++ t) ∨ w ∈ [0x60#8, 0x70#8, 0x80#8, 0x90#8, 0xA0#8]

/-- Each opcode's format fixes the bits that its pattern fixes. -/
theorem decodeWord_ok_fitsPattern {w : Byte} {i : Instr} (h : decodeWord w = .ok i) : FitsPattern w := by
  unfold decodeWord at h
  split at h
  next hop => exact .inl ⟨_, .inl (decodeF1_eq_ok hop h)⟩
  next hop => exact .inl ⟨_, .inr (.inl (decodeF1_eq_ok hop h))⟩
  next hop => exact .inl ⟨_, .inr (.inr (.inl (decodeF1_eq_ok hop h)))⟩
  next hop => exact .inr (.inl ⟨_, decodeF3_eq_ok hop h⟩)
  next hop => exact .inl ⟨_, .inr (.inr (.inr (decodeF1_eq_ok hop h)))⟩
  next hop => rw [decodeF0_eq_ok hop h]; exact .inr (.inr (by decide))
  next hop => rw [decodeF0_eq_ok hop h]; exact .inr (.inr (by decide))
  next hop => rw [decodeF0_eq_ok hop h]; exact .inr (.inr (by decide))
  next hop => rw [decodeF0_eq_ok hop h]; exact .inr (.inr (by decide))
  next hop => rw [decodeF0_eq_ok hop h]; exact .inr (.inr (by decide))
  next => cases h

theorem decodeWord_f1Patterns (v : BitVec 1) :
    decodeWord (0b0001000#7 ++ v) = .ok (.setmeas (decMeas v)) ∧
    decodeWord (0b0010000#7 ++ v) = .ok (.setcfgm (decCfgm v)) ∧
    decodeWord (0b0011000#7 ++ v) = .ok (.setcdr (decCdr v)) ∧
    decodeWord (0b0101000#7 ++ v) = .ok (.setinten (v == 1#1)) := by
  revert v; decide

theorem decodeWord_f3Pattern (t : BitVec 3) : decodeWord (0b01000#5 ++ t) = .ok (.settim (decTim t)) := by
  revert t; decide

/-- Closed, over the 256 words. -/
theorem legalWords_count : ((List.range 256).filter (fun n => (decodeTableWord 8 n).isSome)).length = 21 := by
  decide

/-- Settles O4: the patterns of each format decode, and a word that decodes has the bits its opcode's format fixes. -/
theorem decodeFollowsPatterns : Obligations.DecodeFollowsPatterns :=
  ⟨decodeWord_f1Patterns, decodeWord_f3Pattern, rfl, rfl, rfl, rfl, rfl,
    fun _ _ => decodeWord_ok_fitsPattern, legalWords_count⟩

/-! ## Illegal words: the classes (R64) -/

/-- R64: the class of illegal words that each rejection names, by the opcode and the operand field as numbers. -/
def InClass (w : Byte) : DecodeError → Prop
  | .opcodeUnassigned => w.toNat / 16 = 0 ∨ 0xB ≤ w.toNat / 16
  | .f1OperandReserved => w.toNat / 16 ∈ [0x1, 0x2, 0x3, 0x5] ∧ w.toNat % 16 ≠ 0 ∧ w.toNat % 16 ≠ 1
  | .f3OperandReserved => w.toNat / 16 = 0x4 ∧ 8 ≤ w.toNat % 16
  | .f0OperandNonZero => w.toNat / 16 ∈ [0x6, 0x7, 0x8, 0x9, 0xA] ∧ w.toNat % 16 ≠ 0

theorem opcode_toNat (w : Byte) : (w.extractLsb' 4 4).toNat = w.toNat / 16 := by
  rw [BitVec.extractLsb'_toNat, Nat.shiftRight_eq_div_pow]
  exact Nat.mod_eq_of_lt (Nat.div_lt_of_lt_mul w.isLt)

theorem decodeF1_eq_error_iff {w : Byte} (command : BitVec 1 → Instr) (e : DecodeError)
    (hop : w.toNat / 16 ∈ [0x1, 0x2, 0x3, 0x5]) : decodeF1 w command = .error e ↔ InClass w e := by
  have hfixed : w.extractLsb' 1 3 = 0#3 ↔ w.toNat % 16 = 0 ∨ w.toNat % 16 = 1 := by
    rw [← BitVec.toNat_inj, BitVec.extractLsb'_toNat, Nat.shiftRight_eq_div_pow, BitVec.toNat_zero]
    omega
  simp only [List.mem_cons, List.not_mem_nil, or_false] at hop
  unfold decodeF1
  split
  next hok => rw [hfixed] at hok; cases e <;> simp [InClass] <;> omega
  next herr => rw [hfixed] at herr; cases e <;> simp [InClass] <;> omega

theorem decodeF3_eq_error_iff {w : Byte} (command : BitVec 3 → Instr) (e : DecodeError)
    (hop : w.toNat / 16 = 0x4) : decodeF3 w command = .error e ↔ InClass w e := by
  have hfixed : w.extractLsb' 3 1 = 0#1 ↔ w.toNat % 16 < 8 := by
    rw [← BitVec.toNat_inj, BitVec.extractLsb'_toNat, Nat.shiftRight_eq_div_pow, BitVec.toNat_zero]
    omega
  unfold decodeF3
  split
  next hok => rw [hfixed] at hok; cases e <;> simp [InClass] <;> omega
  next herr => rw [hfixed] at herr; cases e <;> simp [InClass] <;> omega

theorem decodeF0_eq_error_iff {w : Byte} (command : Instr) (e : DecodeError)
    (hop : w.toNat / 16 ∈ [0x6, 0x7, 0x8, 0x9, 0xA]) : decodeF0 w command = .error e ↔ InClass w e := by
  have hfixed : w.extractLsb' 0 4 = 0#4 ↔ w.toNat % 16 = 0 := by
    rw [← BitVec.toNat_inj, BitVec.extractLsb'_toNat, BitVec.toNat_zero, Nat.shiftRight_zero]
  simp only [List.mem_cons, List.not_mem_nil, or_false] at hop
  unfold decodeF0
  split
  next hok => rw [hfixed] at hok; cases e <;> simp [InClass] <;> omega
  next herr => rw [hfixed] at herr; cases e <;> simp [InClass] <;> omega

theorem opcodeUnassigned_iff_inClass {w : Byte} (e : DecodeError) (hop : w.toNat / 16 = 0 ∨ 0xB ≤ w.toNat / 16) :
    (.error .opcodeUnassigned : Except DecodeError Instr) = .error e ↔ InClass w e := by
  cases e <;> simp [InClass] <;> omega

/-- The opcode chooses the format, and with it the one class that the word can be in. -/
theorem decodeWord_eq_error_iff (w : Byte) (e : DecodeError) : decodeWord w = .error e ↔ InClass w e := by
  have hw := opcode_toNat w
  unfold decodeWord
  split
  next hop => exact decodeF1_eq_error_iff _ e (by rw [← hw, hop]; decide)
  next hop => exact decodeF1_eq_error_iff _ e (by rw [← hw, hop]; decide)
  next hop => exact decodeF1_eq_error_iff _ e (by rw [← hw, hop]; decide)
  next hop => exact decodeF3_eq_error_iff _ e (by rw [← hw, hop]; decide)
  next hop => exact decodeF1_eq_error_iff _ e (by rw [← hw, hop]; decide)
  next hop => exact decodeF0_eq_error_iff _ e (by rw [← hw, hop]; decide)
  next hop => exact decodeF0_eq_error_iff _ e (by rw [← hw, hop]; decide)
  next hop => exact decodeF0_eq_error_iff _ e (by rw [← hw, hop]; decide)
  next hop => exact decodeF0_eq_error_iff _ e (by rw [← hw, hop]; decide)
  next hop => exact decodeF0_eq_error_iff _ e (by rw [← hw, hop]; decide)
  next => exact opcodeUnassigned_iff_inClass e (by rw [← hw]; simp only [imp_false] at *; bv_omega)

/-- Closed, over the 256 words. -/
theorem illegalWords_count : ∀ p ∈ [(DecodeError.opcodeUnassigned, 96), (.f1OperandReserved, 56), (.f3OperandReserved, 8),
      (.f0OperandNonZero, 75)],
    ((List.range 256).filter (fun n => decodeWord (BitVec.ofNat 8 n) = .error p.1)).length = p.2 := by
  decide

/-! ## Illegal words: the refusal (R64, R96) -/

theorem step_illegal {s : State} {w : Byte} {rest : List HostInput} {e : DecodeError}
    (hw : s.host = .word w :: rest) (hl : s.life = .live) (hd : decodeWord w = .error e) :
    step s = .next (refuse .illegalCommand { s with host := rest }) := by
  rw [step_word s w rest hw]
  simp only [stepWord, hl, hd]

/-- Settles O6: the decoder's rejection is the word's class, and the refusal keeps a mark that is set. -/
theorem illegalWordsByClass : Obligations.IllegalWordsByClass := by
  refine ⟨fun w => decodeWord_eq_error_iff w _, fun w => decodeWord_eq_error_iff w _,
    fun w => decodeWord_eq_error_iff w _, fun w => decodeWord_eq_error_iff w _, illegalWords_count, ?_⟩
  intro s w rest e hw hl hd
  refine ⟨s.refused.getD .illegalCommand, ?_, fun h => by rw [h]; rfl, fun r h => by rw [h]; rfl⟩
  rw [step_illegal hw hl hd, refuse]
  cases s.refused <;> rfl

end Sys2Proof.Proofs

/-! PROOF. The addresses that creation resolves (R68, R69), and what RELEASE does and refuses (R70). -/

namespace Sys2Proof.Proofs

open Sys2Proof.Machine Sys2Proof.Laws

/-! ## The device address (R68, R69) -/

/-- R68: bit 0 of the address is the pin, which `Default` leaves clear. -/
theorem resolveAddr_eq_baseAddr_or (sel : AddressSelector) :
    resolveAddr sel = Config.baseAddr ||| (if sel = .alternative true then 1#7 else 0#7) := rfl

theorem resolveAddr_of_ne {sel : AddressSelector} (h : sel ≠ .alternative true) :
    resolveAddr sel = Config.baseAddr := by
  rw [resolveAddr_eq_baseAddr_or, if_neg h, BitVec.or_zero]

theorem resolveAddr_alternative_true : resolveAddr (.alternative true) = 0b1001011#7 := by
  rw [resolveAddr_eq_baseAddr_or, if_pos rfl]; decide

/-- Settles O9: the table of R69 is the formula of R68 at each selector. -/
theorem resolveAddrTable : Obligations.ResolveAddrTable :=
  ⟨resolveAddr_of_ne nofun, resolveAddr_of_ne (by decide), resolveAddr_alternative_true, resolveAddr_eq_baseAddr_or⟩

/-! ## RELEASE (R70) -/

theorem exec_release (s : State) : exec .release s = .next { s with life := .released, result := .okReleased } :=
  exec_eq_next_commandEffect .release s

/-- R98: `LIFE` is looked at before the word is decoded, so a released block refuses legal and illegal words alike. -/
theorem step_released {s : State} {w : Byte} {rest : List HostInput}
    (hw : s.host = .word w :: rest) (hl : s.life = .released) :
    step s = .next (refuse .afterRelease { s with host := rest }) := by
  rw [step_word s w rest hw]
  simp only [stepWord, hl]

/-- Settles O35: RELEASE leaves a released block with the host's list as it was, and `step_released` gives its next step. -/
theorem releaseEffect : Obligations.ReleaseEffect := by
  refine ⟨rfl, fun s => ⟨exec_release s, fun w rest hw => ?_⟩⟩
  have hhost : ({ s with life := .released, result := .okReleased } : State).host = .word w :: rest := hw
  exact step_released hhost rfl

end Sys2Proof.Proofs

/-! PROOF. The whole-byte view of the packing (R73): a CONFIGURATION byte as the weighted sum of its codes. -/

namespace Sys2Proof.Proofs

open Sys2Proof.Machine Sys2Proof.Laws

/-! ## The codes of the one-bit fields go both ways (R49 to R51) -/

@[simp] theorem decMeas_encMeas (m : MeasurementMode) : decMeas (encMeas m) = m := by cases m <;> rfl
@[simp] theorem encMeas_decMeas (b : BitVec 1) : encMeas (decMeas b) = b := by revert b; decide
@[simp] theorem decCfgm_encCfgm (c : ConfigurationMode) : decCfgm (encCfgm c) = c := by cases c <;> rfl
@[simp] theorem encCfgm_decCfgm (b : BitVec 1) : encCfgm (decCfgm b) = b := by revert b; decide
@[simp] theorem encCdr_decCdr (b : BitVec 1) : encCdr (decCdr b) = b := by revert b; decide

/-! ## `pack` and `unpack` are inverse (R73) -/

/-- The number that the four codes of `f` make, each with its field's weight. -/
def weightedCodes (f : Fields) : Nat :=
  (encMeas f.meas).toNat * 128 + (encCfgm f.cfgm).toNat * 64 + (encCdr f.cdr).toNat * 8 + (encTim f.tim).toNat

/-- The shifted codes have no bit in common, so their OR is their sum. -/
theorem shiftedCodes_or_eq_sum (m c r : BitVec 1) (t : BitVec 3) :
    m.zeroExtend 8 <<< 7 ||| c.zeroExtend 8 <<< 6 ||| r.zeroExtend 8 <<< 3 ||| t.zeroExtend 8 =
      BitVec.ofNat 8 (m.toNat * 128 + c.toNat * 64 + r.toNat * 8 + t.toNat) := by
  revert m c r t; decide

theorem pack_eq_weightedCodes (f : Fields) : pack f = BitVec.ofNat 8 (weightedCodes f) :=
  shiftedCodes_or_eq_sum _ _ _ _

theorem pack_toNat (f : Fields) : (pack f).toNat = weightedCodes f := by
  rw [pack_eq_weightedCodes, BitVec.toNat_ofNat, Nat.mod_eq_of_lt]
  unfold weightedCodes
  omega

theorem pack_extractLsb' (f : Fields) :
    (pack f).extractLsb' 7 1 = encMeas f.meas ∧ (pack f).extractLsb' 6 1 = encCfgm f.cfgm ∧
      (pack f).extractLsb' 3 1 = encCdr f.cdr ∧ (pack f).extractLsb' 0 3 = encTim f.tim := by
  simp only [← BitVec.toNat_inj, BitVec.extractLsb'_toNat, pack_toNat, weightedCodes, Nat.shiftRight_eq_div_pow]
  omega

theorem unpack_pack (f : Fields) : unpack (pack f) = f := by
  obtain ⟨hmeas, hcfgm, hcdr, htim⟩ := pack_extractLsb' f
  simp [unpack, hmeas, hcfgm, hcdr, htim]

theorem pack_injective {f g : Fields} (h : pack f = pack g) : f = g :=
  Function.LeftInverse.injective unpack_pack h

theorem reservedBits_eq_zero {b : Byte} (h : b &&& 0x30#8 = 0#8) : b.toNat / 16 % 4 = 0 := by
  revert b; decide

/-- The four fields of `b` are its digits in the weights of the codes, and its remaining digit, bits 5:4, is 0. -/
theorem pack_unpack {b : Byte} (h : b &&& 0x30#8 = 0#8) : pack (unpack b) = b := by
  have hreserved := reservedBits_eq_zero h
  apply BitVec.eq_of_toNat_eq
  simp only [pack_toNat, weightedCodes, unpack, encMeas_decMeas, encCfgm_decCfgm, encCdr_decCdr, encTim_decTim,
    BitVec.extractLsb'_toNat, Nat.shiftRight_eq_div_pow]
  omega

/-- Settles O19: the byte is the sum of its weighted codes, which are its digits in these weights. -/
theorem packUnpack : Obligations.PackUnpack :=
  ⟨pack_eq_weightedCodes, fun _ _ => pack_injective, unpack_pack, fun _ => pack_unpack,
    fun _ hinv => (pack_unpack hinv.reservedClear).symm⟩

end Sys2Proof.Proofs

/-! PROOF. What each command leaves in `CFG` and `RESULT`: the only writer of `CFG` (R74) and the manual guard (R75, R95). -/

namespace Sys2Proof.Proofs

open Sys2Proof.Machine Sys2Proof.Laws

variable {E : Type}

/-! ## `CFG` and `RESULT` after each body -/

@[simp] theorem writeConfig_cfg (v : Byte) (s : Generic.State E) :
    (writeConfig v s).cfg = cfgAfterWrite v s.cfg s.writeAnswer := by
  rw [writeConfig_eq]; rfl

@[simp] theorem writeConfig_result (v : Byte) (s : Generic.State E) :
    (writeConfig v s).result = writeResult s.writeAnswer := by
  rw [writeConfig_eq]; rfl

@[simp] theorem writeIntEnable_cfg (b : Bool) (s : Generic.State E) : (writeIntEnable b s).cfg = s.cfg := by
  rw [writeIntEnable_eq]; rfl

@[simp] theorem writeIntEnable_result (b : Bool) (s : Generic.State E) :
    (writeIntEnable b s).result = writeResult s.writeAnswer := by
  rw [writeIntEnable_eq]; rfl

@[simp] theorem readRegister_cfg (reg : Byte) (n : Nat) (value : Vector Byte n → Result E) (s : Generic.State E) :
    (readRegister reg n value s).cfg = s.cfg := by
  rw [readRegister_eq]; rfl

@[simp] theorem readRegister_result (reg : Byte) (n : Nat) (value : Vector Byte n → Result E) (s : Generic.State E) :
    (readRegister reg n value s).result = readResult value (s.readAnswer n) := by
  rw [readRegister_eq]; rfl

/-! ## Only a successful configuration write changes `CFG` (R74) -/

/-- `t` comes from `s` with `CFG` changed by nothing but a successful write to CONFIGURATION, which the log shows. -/
structure CfgFollowsWrites (s t : Generic.State E) : Prop where
  changed : t.cfg ≠ s.cfg → t.busLog = s.busLog ++ [(.write s.devAddr [0x02#8, t.cfg], .ok)] ∧ t.result = .ok
  written : ∀ a v, t.busLog = s.busLog ++ [(.write a [0x02#8, v], .ok)] → t.cfg = v ∧ t.result = .ok
  failed : ∀ a v e, t.busLog = s.busLog ++ [(.write a [0x02#8, v], .err e)] →
    t.cfg = s.cfg ∧ t.result = .errTransport e

theorem writeConfig_cfgFollowsWrites (v : Byte) (s : Generic.State E) : CfgFollowsWrites s (writeConfig v s) := by
  rcases writeConfig_cases v s with ⟨-, h⟩ | ⟨e, -, h⟩ <;> rw [h]
  · exact ⟨fun _ => ⟨rfl, rfl⟩, by simp, by simp⟩
  · exact ⟨fun hne => absurd rfl hne, by simp, by simp⟩

theorem cfgFollowsWrites_of_noConfigWrite {s t : Generic.State E} (hcfg : t.cfg = s.cfg)
    (hlog : ∀ a v x, t.busLog ≠ s.busLog ++ [(.write a [0x02#8, v], x)]) : CfgFollowsWrites s t where
  changed hne := absurd hcfg hne
  written a v h := absurd h (hlog a v .ok)
  failed a v e h := absurd h (hlog a v (.err e))

theorem writeIntEnable_cfgFollowsWrites (b : Bool) (s : Generic.State E) :
    CfgFollowsWrites s (writeIntEnable b s) :=
  cfgFollowsWrites_of_noConfigWrite (writeIntEnable_cfg b s) (by simp [writeIntEnable_busLog, Config.intEnable])

theorem readRegister_cfgFollowsWrites (reg : Byte) (n : Nat) (value : Vector Byte n → Result E)
    (s : Generic.State E) : CfgFollowsWrites s (readRegister reg n value s) :=
  cfgFollowsWrites_of_noConfigWrite (readRegister_cfg reg n value s) (by simp [readRegister_busLog])

theorem guardManual_cfgFollowsWrites {body : Generic.State E → Generic.State E} {s : Generic.State E}
    (h : CfgFollowsWrites s (body s)) : CfgFollowsWrites s (guardManual body s) := by
  rcases guardManual_cases body s with hg | hg <;> rw [hg]
  · exact cfgFollowsWrites_of_noConfigWrite rfl (by simp)
  · exact h

theorem commandEffect_cfgFollowsWrites (i : Instr) (s : Generic.State E) :
    CfgFollowsWrites s (commandEffect i s) := by
  cases i with
  | setmeas m => exact writeConfig_cfgFollowsWrites _ s
  | setcfgm c => exact writeConfig_cfgFollowsWrites _ s
  | setcdr r => exact guardManual_cfgFollowsWrites (writeConfig_cfgFollowsWrites _ s)
  | settim t => exact guardManual_cfgFollowsWrites (writeConfig_cfgFollowsWrites _ s)
  | setinten b => exact writeIntEnable_cfgFollowsWrites b s
  | rdlux => exact readRegister_cfgFollowsWrites _ _ _ s
  | rdtim => exact readRegister_cfgFollowsWrites _ _ _ s
  | rdcdr => exact readRegister_cfgFollowsWrites _ _ _ s
  | rdint => exact readRegister_cfgFollowsWrites _ _ _ s
  | release => exact cfgFollowsWrites_of_noConfigWrite rfl (by simp [commandEffect])

/-- Settles O21: the configuration write is the only body that changes `CFG`, and no other logs a write to 0x02. -/
theorem onlyConfigWriteChangesCfg : Obligations.OnlyConfigWriteChangesCfg := by
  intro i s t h
  obtain rfl := (exec_eq_next_iff i s t).mp h
  obtain ⟨hchanged, hwritten, hfailed⟩ := commandEffect_cfgFollowsWrites i s
  exact ⟨hchanged, hwritten, hfailed⟩

/-! ## The manual guard (R75, R95) -/

theorem commandEffect_guard_closed {i : Instr} {s : Generic.State E} (hi : guarded i = true)
    (hs : s.cfg.getLsbD 6 = false) : commandEffect i s = { s with result := .errNotAvailable } := by
  cases i with
  | setcdr r => exact guardManual_closed _ s hs
  | settim t => exact guardManual_closed _ s hs
  | _ => cases hi

theorem exec_guard_closed {i : Instr} {s : State} (hi : guarded i = true) (hs : s.cfg.getLsbD 6 = false) :
    exec i s = .next { s with result := .errNotAvailable } :=
  (exec_eq_next_iff i s _).mpr (commandEffect_guard_closed hi hs)

theorem writeResult_ne_errNotAvailable (a : WriteAnswer E) : writeResult a ≠ .errNotAvailable := by
  cases a <;> exact nofun

theorem readResult_ne_errNotAvailable {n : Nat} {value : Vector Byte n → Result E}
    (hv : ∀ bytes, value bytes ≠ .errNotAvailable) (a : ReadAnswer E n) : readResult value a ≠ .errNotAvailable := by
  cases a with
  | data bytes => exact hv bytes
  | err e => exact nofun

theorem luxResult_ne_errNotAvailable (bytes : Vector Byte 2) : (luxResult bytes : Result E) ≠ .errNotAvailable := by
  simp [luxResult]
theorem timResult_ne_errNotAvailable (bytes : Vector Byte 1) : (timResult bytes : Result E) ≠ .errNotAvailable := by
  simp [timResult]
theorem cdrResult_ne_errNotAvailable (bytes : Vector Byte 1) : (cdrResult bytes : Result E) ≠ .errNotAvailable := by
  simp [cdrResult]
theorem intResult_ne_errNotAvailable (bytes : Vector Byte 1) : (intResult bytes : Result E) ≠ .errNotAvailable := by
  simp [intResult]

theorem writeConfig_result_ne_errNotAvailable (v : Byte) (s : Generic.State E) :
    (writeConfig v s).result ≠ .errNotAvailable := by
  rw [writeConfig_result]
  exact writeResult_ne_errNotAvailable _

theorem writeIntEnable_result_ne_errNotAvailable (b : Bool) (s : Generic.State E) :
    (writeIntEnable b s).result ≠ .errNotAvailable := by
  rw [writeIntEnable_result]
  exact writeResult_ne_errNotAvailable _

theorem readRegister_result_ne_errNotAvailable (reg : Byte) {n : Nat} {value : Vector Byte n → Result E}
    (hv : ∀ bytes, value bytes ≠ .errNotAvailable) (s : Generic.State E) :
    (readRegister reg n value s).result ≠ .errNotAvailable := by
  rw [readRegister_result]
  exact readResult_ne_errNotAvailable hv _

theorem guardManual_result_eq_errNotAvailable_iff {body : Generic.State E → Generic.State E} {s : Generic.State E}
    (h : (body s).result ≠ .errNotAvailable) :
    (guardManual body s).result = .errNotAvailable ↔ s.cfg.getLsbD 6 = false := by
  cases hs : s.cfg.getLsbD 6 with
  | false => simp [guardManual_closed body s hs]
  | true => simpa [guardManual_open body s hs] using h

/-- No body raises `ErrNotAvailable`; only the guard does. -/
theorem commandEffect_result_eq_errNotAvailable_iff (i : Instr) (s : Generic.State E) :
    (commandEffect i s).result = .errNotAvailable ↔ guarded i = true ∧ s.cfg.getLsbD 6 = false := by
  cases i with
  | setmeas m => exact iff_of_false (writeConfig_result_ne_errNotAvailable _ s) nofun
  | setcfgm c => exact iff_of_false (writeConfig_result_ne_errNotAvailable _ s) nofun
  | setcdr r =>
    refine Iff.trans ?_ (and_iff_right rfl).symm
    exact guardManual_result_eq_errNotAvailable_iff (writeConfig_result_ne_errNotAvailable _ s)
  | settim t =>
    refine Iff.trans ?_ (and_iff_right rfl).symm
    exact guardManual_result_eq_errNotAvailable_iff (writeConfig_result_ne_errNotAvailable _ s)
  | setinten b => exact iff_of_false (writeIntEnable_result_ne_errNotAvailable b s) nofun
  | rdlux => exact iff_of_false (readRegister_result_ne_errNotAvailable _ luxResult_ne_errNotAvailable s) nofun
  | rdtim => exact iff_of_false (readRegister_result_ne_errNotAvailable _ timResult_ne_errNotAvailable s) nofun
  | rdcdr => exact iff_of_false (readRegister_result_ne_errNotAvailable _ cdrResult_ne_errNotAvailable s) nofun
  | rdint => exact iff_of_false (readRegister_result_ne_errNotAvailable _ intResult_ne_errNotAvailable s) nofun
  | release => exact iff_of_false nofun nofun

/-- Settles O22: the closed guard raises `ErrNotAvailable` before the body runs, and no body raises it. -/
theorem manualGuard : Obligations.ManualGuard := by
  refine ⟨fun _ _ => exec_guard_closed, fun i s t h => ?_⟩
  obtain rfl := (exec_eq_next_iff i s t).mp h
  exact commandEffect_result_eq_errNotAvailable_iff i s

end Sys2Proof.Proofs

/-! PROOF. The five setters (R76 to R81): the byte each writes, and the frame. -/

namespace Sys2Proof.Proofs

open Sys2Proof.Machine Sys2Proof.Laws

variable {E : Type}

/-! ## The byte that a setter derives from `CFG` (R71, R72) -/

/-- `upd1` with the mask of one bit replaces that bit. -/
theorem upd1_twoPow_getLsbD (c : Byte) (b : BitVec 1) {k : Nat} (hk : k < 8) (j : Nat) :
    (upd1 c (BitVec.twoPow 8 k) b).getLsbD j = if j = k then (b == 1#1) else c.getLsbD j := by
  rw [upd1_getLsbD, BitVec.getLsbD_twoPow]
  simp [hk, eq_comm]

theorem upd1_measBit_getLsbD (c : Byte) (m : MeasurementMode) (j : Nat) :
    (upd1 c measBit (encMeas m)).getLsbD j = if j = 7 then (m == .continuous) else c.getLsbD j := by
  have hcode : (encMeas m == 1#1) = (m == .continuous) := by cases m <;> rfl
  rw [← hcode]
  exact upd1_twoPow_getLsbD c (encMeas m) (by decide : 7 < 8) j

theorem upd1_manualBit_getLsbD (c : Byte) (m : ConfigurationMode) (j : Nat) :
    (upd1 c manualBit (encCfgm m)).getLsbD j = if j = 6 then (m == .manual) else c.getLsbD j := by
  have hcode : (encCfgm m == 1#1) = (m == .manual) := by cases m <;> rfl
  rw [← hcode]
  exact upd1_twoPow_getLsbD c (encCfgm m) (by decide : 6 < 8) j

theorem upd1_cdrBit_getLsbD (c : Byte) (r : CurrentDivisionRatio) (j : Nat) :
    (upd1 c cdrBit (encCdr r)).getLsbD j = if j = 3 then (r == .oneEighth) else c.getLsbD j := by
  have hcode : (encCdr r == 1#1) = (r == .oneEighth) := by cases r <;> rfl
  rw [← hcode]
  exact upd1_twoPow_getLsbD c (encCdr r) (by decide : 3 < 8) j

theorem updTim_toNat_mod (c : Byte) (k : BitVec 3) : (updTim c k).toNat % 8 = k.toNat := by
  refine Nat.eq_of_testBit_eq fun j => ?_
  change ((updTim c k).toNat % 2 ^ 3).testBit j = k.toNat.testBit j
  rw [Nat.testBit_mod_two_pow, BitVec.testBit_toNat, BitVec.testBit_toNat, updTim_getLsbD]
  by_cases hj : j < 3
  · simp [hj]
  · simp [hj, k.getLsbD_of_ge j (Nat.le_of_not_lt hj)]

theorem updTim_toNat_div (c : Byte) (k : BitVec 3) : (updTim c k).toNat / 8 = c.toNat / 8 := by
  refine Nat.eq_of_testBit_eq fun j => ?_
  change ((updTim c k).toNat / 2 ^ 3).testBit j = (c.toNat / 2 ^ 3).testBit j
  rw [Nat.testBit_div_two_pow, Nat.testBit_div_two_pow, BitVec.testBit_toNat,
    BitVec.testBit_toNat, updTim_getLsbD, if_neg (by omega)]

/-! ## The configuration write (R74) -/

theorem writeConfig_configWritten (v : Byte) (s : Generic.State E) : ConfigWritten s (writeConfig v s) v := by
  refine ⟨?_, ?_, fun ha => ?_, fun e ha => ?_⟩
  · rw [writeConfig_eq]; exact ⟨rfl, rfl, rfl⟩
  · rw [writeConfig_eq]; exact ⟨rfl, rfl, rfl, rfl⟩
  · rw [writeConfig_cfg, writeConfig_result, ha]; exact ⟨rfl, rfl⟩
  · rw [writeConfig_cfg, writeConfig_result, ha]; exact ⟨rfl, rfl⟩

theorem guardManual_open_configWritten (v : Byte) {s : Generic.State E} (hs : s.cfg.getLsbD 6 = true) :
    ConfigWritten s (guardManual (writeConfig v) s) v := by
  rw [guardManual_open _ s hs]
  exact writeConfig_configWritten v s

/-! ## SETMEAS (R76) -/

theorem encodeWord_setmeas (m : MeasurementMode) :
    encodeWord (.setmeas m) = 0x10#8 ||| (if m = .continuous then 1#8 else 0#8) := by
  cases m <;> rfl

/-- Settles O23: `upd1` replaces bit 7 and passes the others. -/
theorem setmeasWritesBit7 : Obligations.SetmeasWritesBit7 := by
  refine fun m s => ⟨encodeWord_setmeas m, _, _, exec_eq_next_commandEffect _ s, writeConfig_configWritten _ s, ?_, ?_⟩
  · rw [upd1_measBit_getLsbD, if_pos rfl]
  · intro j hj
    rw [upd1_measBit_getLsbD, if_neg (by omega)]

/-! ## SETCFGM (R77) -/

theorem encodeWord_setcfgm (c : ConfigurationMode) :
    encodeWord (.setcfgm c) = 0x20#8 ||| (if c = .manual then 1#8 else 0#8) := by
  cases c <;> rfl

/-- A write that carries bit `j` leaves it in `CFG`, whatever the answer. -/
theorem cfgAfterWrite_getLsbD {v c : Byte} {j : Nat} (h : v.getLsbD j = c.getLsbD j) (a : WriteAnswer E) :
    (cfgAfterWrite v c a).getLsbD j = c.getLsbD j := by
  cases a with
  | ok => exact h
  | err e => rfl

theorem setcfgm_setsBit6_iff (c : ConfigurationMode) {s : Generic.State E} (hs : s.cfg.getLsbD 6 = false) :
    (commandEffect (.setcfgm c) s).cfg.getLsbD 6 = true ↔ c = .manual ∧ s.writeAnswer = .ok := by
  rw [commandEffect, writeConfig_cfg]
  cases ha : s.writeAnswer with
  | ok =>
    rw [cfgAfterWrite, upd1_manualBit_getLsbD, if_pos rfl, beq_iff_eq]
    exact (and_iff_left rfl).symm
  | err e =>
    rw [cfgAfterWrite, hs]
    exact iff_of_false nofun nofun

/-- SETMEAS carries bit 6, the closed guard keeps SETCDR and SETTIM from `CFG`, and the others do not write it. -/
theorem commandEffect_keepsBit6Clear {i : Instr} {s : Generic.State E} (hi : ∀ c, i ≠ .setcfgm c)
    (hs : s.cfg.getLsbD 6 = false) : (commandEffect i s).cfg.getLsbD 6 = false := by
  cases i with
  | setmeas m =>
    have hcarried : (upd1 s.cfg measBit (encMeas m)).getLsbD 6 = s.cfg.getLsbD 6 := by
      rw [upd1_measBit_getLsbD, if_neg (by decide)]
    rw [commandEffect, writeConfig_cfg, cfgAfterWrite_getLsbD hcarried, hs]
  | setcfgm c => exact absurd rfl (hi c)
  | setcdr r => rw [commandEffect_guard_closed rfl hs]; exact hs
  | settim t => rw [commandEffect_guard_closed rfl hs]; exact hs
  | setinten b => rw [commandEffect, writeIntEnable_cfg, hs]
  | rdlux => rw [commandEffect, readRegister_cfg, hs]
  | rdtim => rw [commandEffect, readRegister_cfg, hs]
  | rdcdr => rw [commandEffect, readRegister_cfg, hs]
  | rdint => rw [commandEffect, readRegister_cfg, hs]
  | release => exact hs

theorem commandEffect_setsBit6_iff (i : Instr) {s : Generic.State E} (hs : s.cfg.getLsbD 6 = false) :
    (commandEffect i s).cfg.getLsbD 6 = true ↔ i = .setcfgm .manual ∧ s.writeAnswer = .ok := by
  by_cases hi : ∃ c, i = .setcfgm c
  · obtain ⟨c, rfl⟩ := hi
    rw [setcfgm_setsBit6_iff c hs, Instr.setcfgm.injEq]
  · have hne : ∀ c, i ≠ .setcfgm c := not_exists.mp hi
    rw [commandEffect_keepsBit6Clear hne hs]
    exact iff_of_false nofun fun h => hne _ h.1

/-- A closed guard stays closed through commands among which no SETCFGM Manual succeeds. -/
theorem runWithoutManual_keepsBit6Clear {s u : State} (h : RunWithoutManual s u) (hs : s.cfg.getLsbD 6 = false) :
    u.cfg.getLsbD 6 = false := by
  induction h with
  | none s => exact hs
  | command i s t u runs noManual _ ih =>
    obtain rfl := (exec_eq_next_iff i s t).mp runs
    exact ih (Bool.eq_false_of_not_eq_true fun hset => noManual ((commandEffect_setsBit6_iff i hs).mp hset))

theorem setcfgm_automatic_clearsBit6 {s : Generic.State E} (ha : s.writeAnswer = .ok) :
    (commandEffect (.setcfgm .automatic) s).cfg.getLsbD 6 = false := by
  rw [commandEffect, writeConfig_cfg, ha]
  exact upd1_manualBit_getLsbD s.cfg .automatic 6

/-- Settles O24: `upd1` replaces bit 6, every other command passes a clear bit 6 on, and so does a run of them. -/
theorem setcfgmWritesBit6 : Obligations.SetcfgmWritesBit6 := by
  refine ⟨fun c s => ⟨encodeWord_setcfgm c, _, _, exec_eq_next_commandEffect _ s, writeConfig_configWritten _ s, ?_, ?_⟩,
    fun i s t h hs => ?_, fun s t u i ha h run hi => ?_⟩
  · rw [upd1_manualBit_getLsbD, if_pos rfl]
  · intro j hj
    rw [upd1_manualBit_getLsbD, if_neg hj]
  · obtain rfl := (exec_eq_next_iff i s t).mp h
    exact commandEffect_setsBit6_iff i hs
  · obtain rfl := (exec_eq_next_iff _ s t).mp h
    exact exec_guard_closed hi (runWithoutManual_keepsBit6Clear run (setcfgm_automatic_clearsBit6 ha))

/-! ## SETCDR and SETTIM, guarded (R78, R79) -/

theorem encodeWord_setcdr (r : CurrentDivisionRatio) :
    encodeWord (.setcdr r) = 0x30#8 ||| (if r = .oneEighth then 1#8 else 0#8) := by
  cases r <;> rfl

theorem encodeWord_settim (t : IntegrationTime) :
    encodeWord (.settim t) = 0x40#8 ||| (encTim t).zeroExtend 8 := by
  cases t <;> rfl

/-- A guarded command ends as the closed guard leaves it exactly with the guard closed, as no other command ends in
`ErrNotAvailable`. -/
theorem exec_guarded_eq_closed_iff {i : Instr} {s : State} (hi : guarded i = true) :
    exec i s = .next { s with result := .errNotAvailable } ↔ s.cfg.getLsbD 6 = false := by
  refine ⟨fun h => ?_, exec_guard_closed hi⟩
  have heffect := (exec_eq_next_iff i s _).mp h
  obtain ⟨-, hclosed⟩ := (commandEffect_result_eq_errNotAvailable_iff i s).mp (by rw [heffect])
  exact hclosed

/-- Settles O25: with the guard open, `upd1` replaces bit 3; under the invariant, the byte that the guard tests is the last
one written with success. -/
theorem setcdrWritesBit3 : Obligations.SetcdrWritesBit3 := by
  refine fun r s => ⟨encodeWord_setcdr r, exec_guard_closed rfl, fun hs => ?_, fun hinv => ?_⟩
  · refine ⟨_, _, exec_eq_next_commandEffect _ s, guardManual_open_configWritten _ hs, ?_, fun j hj => ?_⟩
    · rw [upd1_cdrBit_getLsbD, if_pos rfl]
    · rw [upd1_cdrBit_getLsbD, if_neg hj]
  · rw [hinv.cfgIsLastWritten]
    exact exec_guarded_eq_closed_iff rfl

/-- Settles O26: with the guard open, `updtim` clears bits 2:0 before it sets the code. -/
theorem settimWritesBits2To0 : Obligations.SettimWritesBits2To0 :=
  fun t s => ⟨encodeWord_settim t, exec_guard_closed rfl, fun hs =>
    ⟨_, _, exec_eq_next_commandEffect _ s, guardManual_open_configWritten _ hs, updTim_toNat_mod _ _,
      updTim_toNat_div _ _⟩⟩

/-! ## SETINTEN (R80) -/

theorem encodeWord_setinten (b : Bool) : encodeWord (.setinten b) = 0x50#8 ||| (if b then 1#8 else 0#8) := by
  cases b <;> rfl

/-- `CFG` passes through SETINTEN, and the request and the result do not depend on it. -/
theorem exec_setinten (b : Bool) (s : State) :
    exec (.setinten b) s = .next (afterWrite s 0x01#8 (encInten b) s.cfg) := by
  rw [exec_eq_next_iff]
  exact writeIntEnable_eq b s

/-- Settles O27: the body's one write and its answer are the same for every `CFG`. -/
theorem setintenWritesIntEnable : Obligations.SetintenWritesIntEnable := by
  refine fun b s => ⟨encodeWord_setinten b, writeResult s.writeAnswer, fun c => exec_setinten b { s with cfg := c },
    fun ha => ?_, fun e ha => ?_⟩
  · rw [ha]; rfl
  · rw [ha]; rfl

/-! ## The frame of the setters (R81) -/

/-- `t` comes from `s` with the block kept and at most one request, a `Write` of two bytes, which alone can set `CFG`. -/
def SetterFrame (s t : Generic.State E) : Prop :=
  BlockKept s t ∧
    ((t = { s with result := t.result }) ∨
     (∃ bytes, bytes.length = 2 ∧ OneRequest s t (.write s.devAddr bytes) s.writeAnswer.toBus ∧
       (t.cfg = s.cfg ∨ bytes = [0x02#8, t.cfg])))

theorem writeConfig_setterFrame (v : Byte) (s : Generic.State E) : SetterFrame s (writeConfig v s) := by
  obtain ⟨hrequest, hkept, hok, herr⟩ := writeConfig_configWritten v s
  refine ⟨hkept, .inr ⟨_, rfl, hrequest, ?_⟩⟩
  cases ha : s.writeAnswer with
  | ok =>
    obtain ⟨hcfg, -⟩ := hok ha
    exact .inr (by rw [hcfg])
  | err e =>
    obtain ⟨hcfg, -⟩ := herr e ha
    exact .inl hcfg

theorem writeIntEnable_setterFrame (b : Bool) (s : Generic.State E) : SetterFrame s (writeIntEnable b s) := by
  rw [writeIntEnable_eq]
  exact ⟨⟨rfl, rfl, rfl, rfl⟩, .inr ⟨_, rfl, ⟨rfl, rfl, rfl⟩, .inl rfl⟩⟩

theorem guardManual_setterFrame {body : Generic.State E → Generic.State E} {s : Generic.State E}
    (h : SetterFrame s (body s)) : SetterFrame s (guardManual body s) := by
  rcases guardManual_cases body s with hg | hg <;> rw [hg]
  · exact ⟨⟨rfl, rfl, rfl, rfl⟩, .inl rfl⟩
  · exact h

/-- Settles O28: each setter is one of the two writers, with or without the guard. -/
theorem settersFrame : Obligations.SettersFrame := by
  refine fun i s hi => ⟨commandEffect i s, exec_eq_next_commandEffect i s, (?_ : SetterFrame s (commandEffect i s))⟩
  cases i with
  | setmeas m => exact writeConfig_setterFrame _ s
  | setcfgm c => exact writeConfig_setterFrame _ s
  | setcdr r => exact guardManual_setterFrame (writeConfig_setterFrame _ s)
  | settim t => exact guardManual_setterFrame (writeConfig_setterFrame _ s)
  | setinten b => exact writeIntEnable_setterFrame b s
  | _ => simp at hi

end Sys2Proof.Proofs

/-! PROOF. Rounding of `m * 2^e` to a format: it depends on the value alone and is monotone in it, and the conversion of a
small natural number is exact. -/

namespace Sys2Proof.Proofs

open Sys2Proof.Machine Sys2Proof.Laws

/-! ## The significand in a given unit -/

/-- `m * 2^e` as a multiple of `2^unit`, rounded to nearest with ties to even. -/
def significandIn (unit : Int) (m : Nat) (e : Int) : Nat :=
  if e ≥ unit then m * 2 ^ (e - unit).toNat else roundShift m (unit - e).toNat

theorem significandIn_mono {m n : Nat} (unit e : Int) (h : m ≤ n) : significandIn unit m e ≤ significandIn unit n e := by
  unfold significandIn
  split
  · exact Nat.mul_le_mul_right _ h
  · exact roundShift_mono _ _ _ h

/-- Common factors of two change no quotient, and no comparison of the remainder with a half. -/
theorem roundShift_mul_twoPow (m j k : Nat) : roundShift (m * 2 ^ k) (j + k) = roundShift m j := by
  have hk := Nat.two_pow_pos k
  have hhalf (x y : Nat) : 2 * (x * 2 ^ k) > y * 2 ^ k ↔ 2 * x > y := by
    rw [← Nat.mul_assoc]; exact Nat.mul_lt_mul_right hk
  have htie (x y : Nat) : 2 * (x * 2 ^ k) = y * 2 ^ k ↔ 2 * x = y := by
    rw [← Nat.mul_assoc]; exact Nat.mul_left_inj hk.ne'
  simp only [roundShift, Nat.pow_add, Nat.mul_div_mul_right _ _ hk, Nat.mul_mod_mul_right, hhalf, htie]

/-- The same value under a smaller exponent has the same significand. -/
theorem significandIn_mul_twoPow (unit : Int) (m k : Nat) (e : Int) :
    significandIn unit (m * 2 ^ k) (e - k) = significandIn unit m e := by
  unfold significandIn
  by_cases hfine : e - k ≥ unit
  · have hexp : (e - unit).toNat = k + (e - k - unit).toNat := by omega
    rw [if_pos hfine, if_pos (by omega), hexp, Nat.pow_add, Nat.mul_assoc]
  · rw [if_neg hfine]
    by_cases hunit : e ≥ unit
    · have hsplit : m * 2 ^ k = m * 2 ^ (e - unit).toNat * 2 ^ (unit - (e - k)).toNat := by
        rw [Nat.mul_assoc, ← Nat.pow_add]
        congr 2
        omega
      rw [if_pos hunit, hsplit, roundShift_exact]
    · have hshift : (unit - (e - k)).toNat = (unit - e).toNat + k := by omega
      rw [if_neg hunit, hshift, roundShift_mul_twoPow]

/-- A power of two that is a multiple of the unit is not rounded. -/
theorem significandIn_twoPow {unit e : Int} {j p : Nat} (h : e + j = unit + p) : significandIn unit (2 ^ j) e = 2 ^ p := by
  unfold significandIn
  split
  · rw [← Nat.pow_add]
    congr 1
    omega
  · have hj : j = p + (unit - e).toNat := by omega
    rw [hj, Nat.pow_add, roundShift_exact]

/-! ## The rounded magnitude -/

/-- The exponent of the unit in which the format `f` holds `m * 2^e`. -/
def unitOf (f : FloatFormat) (m : Nat) (e : Int) : Int := max (e + Nat.log2 m - f.fracBits) f.minExp

theorem unitOf_mono (f : FloatFormat) {m n : Nat} (e : Int) (h : m ≤ n) : unitOf f m e ≤ unitOf f n e := by
  have hlog : Nat.log2 m ≤ Nat.log2 n := by
    rw [Nat.log2_eq_log_two, Nat.log2_eq_log_two]
    exact Nat.log_mono_right h
  unfold unitOf
  omega

@[simp] theorem roundMagnitude_zero (f : FloatFormat) (e : Int) : roundMagnitude f 0 e = 0 := rfl

theorem roundMagnitude_of_ne_zero (f : FloatFormat) {m : Nat} (e : Int) (hm : m ≠ 0) :
    roundMagnitude f m e =
      min ((unitOf f m e - f.minExp).toNat * 2 ^ f.fracBits + significandIn (unitOf f m e) m e) f.infBits :=
  if_neg hm

theorem roundMagnitude_le_infBits (f : FloatFormat) (m : Nat) (e : Int) : roundMagnitude f m e ≤ f.infBits := by
  by_cases hm : m = 0
  · rw [hm, roundMagnitude_zero]
    exact Nat.zero_le _
  · rw [roundMagnitude_of_ne_zero f e hm]
    exact Nat.min_le_right _ _

theorem log2_mul_twoPow {m : Nat} (hm : m ≠ 0) (k : Nat) : Nat.log2 (m * 2 ^ k) = Nat.log2 m + k := by
  induction k with
  | zero => rw [Nat.pow_zero, Nat.mul_one, Nat.add_zero]
  | succ k ih =>
    have hprod : m * 2 ^ k ≠ 0 := Nat.mul_ne_zero hm (Nat.two_pow_pos k).ne'
    rw [Nat.pow_succ', Nat.mul_left_comm, Nat.log2_two_mul hprod, ih, Nat.add_assoc]

/-- Rounding depends on the value `m * 2^e` alone. -/
theorem roundMagnitude_mul_twoPow (f : FloatFormat) (m k : Nat) (e : Int) :
    roundMagnitude f (m * 2 ^ k) (e - k) = roundMagnitude f m e := by
  by_cases hm : m = 0
  · rw [hm, Nat.zero_mul, roundMagnitude_zero, roundMagnitude_zero]
  · have hprod : m * 2 ^ k ≠ 0 := Nat.mul_ne_zero hm (Nat.two_pow_pos k).ne'
    have hunit : unitOf f (m * 2 ^ k) (e - k) = unitOf f m e := by
      rw [unitOf, unitOf, log2_mul_twoPow hm k]
      congr 1
      omega
    rw [roundMagnitude_of_ne_zero f _ hprod, roundMagnitude_of_ne_zero f e hm, hunit, significandIn_mul_twoPow]

/-- A significand has at most `fracBits + 1` bits, but for the carry out of the rounding. -/
theorem significandIn_unitOf_le (f : FloatFormat) (m : Nat) (e : Int) :
    significandIn (unitOf f m e) m e ≤ 2 ^ (f.fracBits + 1) := by
  have hunit : e + Nat.log2 m - f.fracBits ≤ unitOf f m e := le_max_left _ _
  obtain ⟨j, hj⟩ : ∃ j : Nat, e + j = unitOf f m e + (f.fracBits + 1 : Nat) :=
    ⟨(unitOf f m e + (f.fracBits + 1 : Nat) - e).toNat, by omega⟩
  have hm : m ≤ 2 ^ j := by
    have hlt : m < 2 ^ (Nat.log2 m + 1) := Nat.lt_log2_self
    exact hlt.le.trans (Nat.pow_le_pow_right (by decide) (by omega))
  exact (significandIn_mono _ e hm).trans_eq (significandIn_twoPow hj)

/-- A significand in a unit above the smallest has its leading bit at `fracBits`. -/
theorem le_significandIn_unitOf (f : FloatFormat) {m : Nat} {e : Int} (hm : m ≠ 0) (hunit : f.minExp < unitOf f m e) :
    2 ^ f.fracBits ≤ significandIn (unitOf f m e) m e := by
  have hj : e + Nat.log2 m = unitOf f m e + f.fracBits := by
    unfold unitOf at hunit ⊢
    omega
  exact (significandIn_twoPow hj).symm.trans_le (significandIn_mono _ e (Nat.log2_self_le hm))

/-- Rounding is monotone: in one unit the significands are, and in a greater unit the encoding starts a whole exponent
later. -/
theorem roundMagnitude_mono (f : FloatFormat) {m n : Nat} (e : Int) (h : m ≤ n) :
    roundMagnitude f m e ≤ roundMagnitude f n e := by
  by_cases hm : m = 0
  · rw [hm, roundMagnitude_zero]
    exact Nat.zero_le _
  have hn : n ≠ 0 := by omega
  rw [roundMagnitude_of_ne_zero f e hm, roundMagnitude_of_ne_zero f e hn]
  refine min_le_min_right _ ?_
  rcases (unitOf_mono f e h).eq_or_lt with heq | hlt
  · rw [heq]
    exact Nat.add_le_add_left (significandIn_mono _ e h) _
  · have hmin : f.minExp ≤ unitOf f m e := le_max_right _ _
    have hlow := significandIn_unitOf_le f m e
    have hhigh := le_significandIn_unitOf f hn (hmin.trans_lt hlt)
    have hexp : (unitOf f m e - f.minExp).toNat + 1 ≤ (unitOf f n e - f.minExp).toNat := by omega
    calc _ ≤ (unitOf f m e - f.minExp).toNat * 2 ^ f.fracBits + 2 ^ (f.fracBits + 1) := Nat.add_le_add_left hlow _
      _ = ((unitOf f m e - f.minExp).toNat + 1) * 2 ^ f.fracBits + 2 ^ f.fracBits := by ring
      _ ≤ _ := Nat.add_le_add (Nat.mul_le_mul_right _ hexp) hhigh

/-! ## The significand and the exponent of an encoding -/

/-- An encoding whose significand has its leading bit at `fracBits` gives back that significand and its unit. -/
theorem significandOf_normal (f : FloatFormat) {q r : Nat} (hr : r < 2 ^ f.fracBits) :
    significandOf f (q * 2 ^ f.fracBits + (2 ^ f.fracBits + r)) = 2 ^ f.fracBits + r := by
  have hpos := Nat.two_pow_pos f.fracBits
  have hbits : q * 2 ^ f.fracBits + (2 ^ f.fracBits + r) = r + (q + 1) * 2 ^ f.fracBits := by ring
  rw [significandOf, hbits, Nat.add_mul_div_right _ _ hpos, Nat.div_eq_of_lt hr, Nat.add_mul_mod_self_right,
    Nat.mod_eq_of_lt hr, if_neg (by omega)]

theorem exponentOf_normal (f : FloatFormat) {q r : Nat} (hr : r < 2 ^ f.fracBits) :
    exponentOf f (q * 2 ^ f.fracBits + (2 ^ f.fracBits + r)) = f.minExp + q := by
  have hpos := Nat.two_pow_pos f.fracBits
  have hbits : q * 2 ^ f.fracBits + (2 ^ f.fracBits + r) = r + (q + 1) * 2 ^ f.fracBits := by ring
  rw [exponentOf, hbits, Nat.add_mul_div_right _ _ hpos, Nat.div_eq_of_lt hr]
  omega

theorem exponentOf_eq_add_toNat (f : FloatFormat) (bits : Nat) :
    exponentOf f bits = f.minExp + (exponentOf f bits - f.minExp).toNat := by
  unfold exponentOf
  omega

/-! ## Binary32: conversion and multiplication (R9, R85) -/

theorem f32OfNat_toNat (n : Nat) : (f32OfNat n).toNat = roundMagnitude binary32 n 0 := by
  have hle := roundMagnitude_le_infBits binary32 n 0
  rw [binary32_infBits] at hle
  rw [f32OfNat, BitVec.toNat_ofNat]
  exact Nat.mod_eq_of_lt (by omega)

/-- A natural number with at most 24 bits is shifted, not rounded: its leading bit goes to bit 23. -/
theorem f32OfNat_normal {n : Nat} (hn : n ≠ 0) (hlt : n < 2 ^ 24) :
    ∃ q r, r < 2 ^ 23 ∧ q ≤ 149 ∧ (f32OfNat n).toNat = q * 2 ^ 23 + (2 ^ 23 + r) ∧
      (2 ^ 23 + r) * 2 ^ q = n * 2 ^ 149 := by
  have hlog : Nat.log2 n < 24 := (Nat.log2_lt hn).mpr hlt
  obtain ⟨d, hd⟩ : ∃ d, Nat.log2 n + d = 23 := ⟨23 - Nat.log2 n, by omega⟩
  have hshift : Nat.log2 (n * 2 ^ d) = 23 := (log2_mul_twoPow hn d).trans hd
  obtain ⟨hlo, hhi⟩ := (Nat.log2_eq_iff (Nat.mul_ne_zero hn (Nat.two_pow_pos d).ne')).mp hshift
  obtain ⟨r, hr⟩ := Nat.exists_eq_add_of_le hlo
  have hunit : unitOf binary32 n 0 = -d := by
    rw [unitOf, binary32_fracBits, binary32_minExp]
    omega
  have hsig : significandIn (-d) n 0 = 2 ^ 23 + r := by
    rw [significandIn, if_pos (by omega), ← hr]
    congr 2
    omega
  refine ⟨149 - d, r, by omega, by omega, ?_, ?_⟩
  · rw [f32OfNat_toNat, roundMagnitude_of_ne_zero binary32 0 hn, hunit, hsig, binary32_minExp, binary32_fracBits,
      binary32_infBits]
    omega
  · rw [← hr, Nat.mul_assoc, ← Nat.pow_add]
    congr 2
    omega

theorem f32OfNat_toNat_lt {n : Nat} (hlt : n < 2 ^ 24) : (f32OfNat n).toNat < binary32.infBits := by
  rw [binary32_infBits]
  by_cases hn : n = 0
  · rw [hn]; decide
  · obtain ⟨q, r, hr, hq, hbits, -⟩ := f32OfNat_normal hn hlt
    omega

/-- R85: the conversion is exact, in units of the smallest subnormal number. -/
theorem f32OfNat_exact {n : Nat} (hlt : n < 2 ^ 24) :
    significandOf binary32 (f32OfNat n).toNat * 2 ^ (exponentOf binary32 (f32OfNat n).toNat - binary32.minExp).toNat =
      n * 2 ^ 149 := by
  by_cases hn : n = 0
  · rw [hn]; decide
  · obtain ⟨q, r, hr, hq, hbits, hvalue⟩ := f32OfNat_normal hn hlt
    have hexp : exponentOf binary32 (q * 2 ^ 23 + (2 ^ 23 + r)) - binary32.minExp = q :=
      sub_eq_of_eq_add' (exponentOf_normal binary32 hr)
    have hsig : significandOf binary32 (q * 2 ^ 23 + (2 ^ 23 + r)) = 2 ^ 23 + r := significandOf_normal binary32 hr
    rw [hbits, hexp, hsig]
    exact hvalue

/-- The product of two finite magnitudes is the exact product of their values, rounded once. -/
theorem mulMagnitude_of_finite (f : FloatFormat) {a b : Nat} (ha : a < f.infBits) (hb : b < f.infBits) :
    mulMagnitude f a b =
      roundMagnitude f (significandOf f a * significandOf f b) (exponentOf f a + exponentOf f b) := by
  rw [mulMagnitude, if_neg (by omega), if_neg (by omega)]

theorem mulF32_toNat {a b : Binary32} (ha : a.toNat < binary32.infBits) (hb : b.toNat < binary32.infBits) :
    (mulF32 a b).toNat = roundMagnitude binary32 (significandOf binary32 a.toNat * significandOf binary32 b.toNat)
      (exponentOf binary32 a.toNat + exponentOf binary32 b.toNat) := by
  have hsign {x : Binary32} (hx : x.toNat < binary32.infBits) : x.msb = false := by
    rw [binary32_infBits] at hx
    rw [BitVec.msb_eq_false_iff_two_mul_lt]; omega
  have hmagnitude {x : Binary32} (hx : x.toNat < binary32.infBits) : (x.setWidth 31).toNat = x.toNat := by
    rw [binary32_infBits] at hx
    rw [BitVec.toNat_setWidth]; omega
  rw [mulF32, hsign ha, hsign hb, hmagnitude ha, hmagnitude hb, mulMagnitude_of_finite binary32 ha hb]
  have hle := roundMagnitude_le_infBits binary32 (significandOf binary32 a.toNat * significandOf binary32 b.toNat)
    (exponentOf binary32 a.toNat + exponentOf binary32 b.toNat)
  rw [binary32_infBits] at hle
  rw [BitVec.toNat_append, BitVec.toNat_ofNat, Nat.mod_eq_of_lt (by omega)]
  exact Nat.zero_or _

end Sys2Proof.Proofs

/-! PROOF. The lux decoder: the count of two bytes (R82 to R85) and the F32 lux value (R86, R87). -/

namespace Sys2Proof.Proofs

open Sys2Proof.Machine Sys2Proof.Laws

/-! ## The count of two lux bytes (R82 to R84) -/

theorem luxExponent_eq (msb : Byte) : luxExponent msb = msb.toNat / 16 := by
  revert msb; decide

theorem lowNibble_toNat (b : Byte) : (b &&& 0x0F#8).toNat = b.toNat % 16 := by
  rw [BitVec.toNat_and]
  exact Nat.and_two_pow_sub_one_eq_mod b.toNat 4

/-- The low nibble of `lsb` fills the four bits that the shift of `msb`'s leaves clear. -/
theorem luxMantissa_eq (msb lsb : Byte) : luxMantissa msb lsb = 16 * (msb.toNat % 16) + lsb.toNat % 16 := by
  have hlow : lsb.toNat % 16 < 2 ^ 4 := Nat.mod_lt _ (by decide)
  have hhigh : ((msb &&& 0x0F#8) <<< 4).toNat = 2 ^ 4 * (msb.toNat % 16) := by
    rw [BitVec.toNat_shiftLeft, lowNibble_toNat, Nat.shiftLeft_eq]
    omega
  rw [luxMantissa, BitVec.toNat_or, hhigh, lowNibble_toNat, ← Nat.two_pow_add_eq_or_of_lt hlow]

theorem luxExponent_le (msb : Byte) : luxExponent msb ≤ 15 := by
  have := msb.isLt
  rw [luxExponent_eq]
  omega

theorem luxMantissa_le (msb lsb : Byte) : luxMantissa msb lsb ≤ 255 := by
  rw [luxMantissa_eq]
  omega

theorem shifted_luxExponent_le (msb : Byte) : 1 <<< luxExponent msb ≤ 32768 := by
  rw [Nat.one_shiftLeft]
  exact Nat.pow_le_pow_right (by decide) (luxExponent_le msb)

theorem luxCount_le (msb lsb : Byte) : luxCount msb lsb ≤ 8355840 :=
  Nat.mul_le_mul (shifted_luxExponent_le msb) (luxMantissa_le msb lsb)

theorem luxCount_eq (msb lsb : Byte) :
    luxCount msb lsb = 2 ^ (msb.toNat / 16) * (16 * (msb.toNat % 16) + lsb.toNat % 16) := by
  rw [luxCount, Nat.one_shiftLeft, luxExponent_eq, luxMantissa_eq]

theorem luxDecode_eq (msb lsb : Byte) :
    luxDecode msb lsb =
      (2 ^ (msb.toNat / 16) * (16 * (msb.toNat % 16) + lsb.toNat % 16),
        luxScale (2 ^ (msb.toNat / 16) * (16 * (msb.toNat % 16) + lsb.toNat % 16))) := by
  rw [luxDecode, luxCount_eq]

theorem luxCount_eq_zero_iff (msb lsb : Byte) : luxCount msb lsb = 0 ↔ luxMantissa msb lsb = 0 := by
  simp [luxCount, Nat.one_shiftLeft]

/-- Settles O29: the count is the exponent's power of two times the mantissa's two nibbles, and `f32` only shifts. -/
theorem luxCountExact : Obligations.LuxCountExact := by
  refine ⟨fun msb lsb => ?_, fun n hn => ⟨f32OfNat_toNat_lt hn, f32OfNat_exact hn⟩⟩
  have hcount := luxCount_le msb lsb
  exact ⟨luxDecode_eq msb lsb, luxExponent_eq msb, luxMantissa_eq msb lsb, luxExponent_le msb, shifted_luxExponent_le msb,
    luxMantissa_le msb lsb, hcount, by omega⟩

/-! ## The F32 lux value (R86, R87) -/

/-- R86: the F32 lux value is the exact product of the count and `LUX_C`, rounded once. -/
theorem luxScaleUnder_f32_toNat {count : Nat} (hlt : count < 2 ^ 24) :
    (luxScaleUnder .f32 count).toNat =
      roundMagnitude binary32 (count * significandOf binary32 Config.luxC.toNat)
        (exponentOf binary32 Config.luxC.toNat) := by
  have hluxC : Config.luxC.toNat < binary32.infBits := by decide
  have hexact := f32OfNat_exact hlt
  have hexp := exponentOf_eq_add_toNat binary32 (f32OfNat count).toNat
  rw [luxScaleUnder, mulF32_toNat (f32OfNat_toNat_lt hlt) hluxC]
  generalize exponentOf binary32 (f32OfNat count).toNat = e at *
  generalize significandOf binary32 (f32OfNat count).toNat = m at *
  generalize significandOf binary32 Config.luxC.toNat = c
  generalize exponentOf binary32 Config.luxC.toNat = g
  generalize (e - binary32.minExp).toNat = k at *
  rw [binary32_minExp] at hexp
  have hproduct : m * c * 2 ^ k = count * c * 2 ^ 149 := by rw [mul_right_comm, hexact, mul_right_comm]
  have hscaled : e + g - (k : Nat) = g - (149 : Nat) := by omega
  rw [← roundMagnitude_mul_twoPow binary32 _ k, hproduct, hscaled, roundMagnitude_mul_twoPow]

theorem luxScaleUnder_f32_mono {c d : Nat} (h : c ≤ d) (hlt : d < 2 ^ 24) :
    (luxScaleUnder .f32 c).toNat ≤ (luxScaleUnder .f32 d).toNat := by
  rw [luxScaleUnder_f32_toNat (h.trans_lt hlt), luxScaleUnder_f32_toNat hlt]
  exact roundMagnitude_mono binary32 _ (Nat.mul_le_mul_right _ h)

theorem luxScaleUnder_f32_zero : luxScaleUnder .f32 0 = 0#32 := by decide
theorem luxScaleUnder_f32_one : luxScaleUnder .f32 1 = 0x3D3851EC#32 := by decide
theorem luxScaleUnder_f32_max : luxScaleUnder .f32 8355840 = 0x48B7999A#32 := by decide

theorem luxScaleUnder_f32_le {count : Nat} (h : count ≤ 8355840) : (luxScaleUnder .f32 count).toNat ≤ 0x48B7999A := by
  have hle := luxScaleUnder_f32_mono h (by decide)
  rwa [luxScaleUnder_f32_max] at hle

theorem le_luxScaleUnder_f32 {count : Nat} (hpos : 1 ≤ count) (h : count ≤ 8355840) :
    0x3D3851EC ≤ (luxScaleUnder .f32 count).toNat := by
  have hle := luxScaleUnder_f32_mono hpos (by omega)
  rwa [luxScaleUnder_f32_one] at hle

theorem luxScaleUnder_f32_eq_zero_iff {count : Nat} (h : count ≤ 8355840) :
    luxScaleUnder .f32 count = 0#32 ↔ count = 0 := by
  constructor
  · intro hzero
    by_contra hne
    have hle := le_luxScaleUnder_f32 (Nat.one_le_iff_ne_zero.mpr hne) h
    rw [hzero] at hle
    exact absurd hle (by decide)
  · intro hzero
    rw [hzero, luxScaleUnder_f32_zero]

/-- Settles O43: the value is monotone in the count, so its values at the counts 1 and 8355840 bound the others. -/
theorem luxScaleProperties : Obligations.LuxScaleProperties := by
  refine ⟨fun msb lsb => ?_, luxScaleUnder_f32_one, luxScaleUnder_f32_max,
    fun c d hcd hd => luxScaleUnder_f32_mono hcd (by omega)⟩
  have hcount := luxCount_le msb lsb
  have hupper := luxScaleUnder_f32_le hcount
  refine ⟨by omega, ?_, fun hm => ⟨?_, hupper⟩⟩
  · rw [luxScaleUnder_f32_eq_zero_iff hcount, luxCount_eq_zero_iff]
  · have hpos : luxCount msb lsb ≠ 0 := fun hzero => hm ((luxCount_eq_zero_iff msb lsb).mp hzero)
    exact le_luxScaleUnder_f32 (Nat.one_le_iff_ne_zero.mpr hpos) hcount

end Sys2Proof.Proofs

/-! PROOF. The four readers (R88 to R92): the result of each, and the frame. -/

namespace Sys2Proof.Proofs

open Sys2Proof.Machine Sys2Proof.Laws

/-! ## The readers (R88 to R91) -/

/-- What the four readers share: the request and the result do not depend on `CFG`, and the result is made of the bytes
read, or is the transport error. -/
theorem exec_reader {i : Instr} {reg : Byte} {n : Nat} {value : Vector Byte n → Result BusError}
    (hi : ∀ s, commandEffect i s = readRegister reg n value s) (s : State) :
    ∃ r, (∀ c : Byte, exec i { s with cfg := c } = .next (afterRead { s with cfg := c } reg n r)) ∧
      (∀ bytes, s.readAnswer n = .data bytes → r = value bytes) ∧
      (∀ e, s.readAnswer n = .err e → r = .errTransport e) := by
  refine ⟨readResult value (s.readAnswer n), fun c => ?_, fun bytes ha => ?_, fun e ha => ?_⟩
  · rw [exec_eq_next_iff, hi]
    exact readRegister_eq reg n value { s with cfg := c }
  · rw [ha]; rfl
  · rw [ha]; rfl

theorem luxResult_eq {E : Type} (msb lsb : Byte) :
    (luxResult #v[msb, lsb] : Result E) =
      .okLux (2 ^ (msb.toNat / 16) * (16 * (msb.toNat % 16) + lsb.toNat % 16))
        (luxScaleUnder .f32 (2 ^ (msb.toNat / 16) * (16 * (msb.toNat % 16) + lsb.toNat % 16))) := by
  rw [← luxCount_eq]; rfl

/-- Settles O30: the bytes that the one request brings go through `lux_decode`. -/
theorem rdluxResult : Obligations.RdluxResult := by
  refine ⟨rfl, fun _ => rfl, fun s => ?_⟩
  obtain ⟨r, hexec, hdata, herr⟩ := exec_reader (i := .rdlux) (fun _ => rfl) s
  exact ⟨r, hexec, fun msb lsb ha => (hdata _ ha).trans (luxResult_eq msb lsb), herr⟩

theorem encTim_decTim_lowBits (b : Byte) : (encTim (decTim (b.extractLsb' 0 3))).toNat = b.toNat % 8 := by
  rw [encTim_decTim, BitVec.extractLsb'_toNat, Nat.shiftRight_zero]

/-- Settles O31: the time is `dec_tim` of bits 2:0, so its code is those bits. -/
theorem rdtimResult : Obligations.RdtimResult := by
  refine ⟨rfl, fun s => ?_⟩
  obtain ⟨r, hexec, hdata, herr⟩ := exec_reader (i := .rdtim) (fun _ => rfl) s
  exact ⟨r, hexec, fun b ha => ⟨_, hdata _ ha, encTim_decTim_lowBits b⟩, herr⟩

theorem cdrResult_eq {E : Type} (b : Byte) :
    (cdrResult #v[b] : Result E) = .okCdr (if b.getLsbD 3 then .oneEighth else .one) := by
  refine congrArg Result.okCdr (?_ : decCdr (b.extractLsb' 3 1) = _)
  revert b; decide

/-- Settles O32: the ratio is `dec_cdr` of bit 3. -/
theorem rdcdrResult : Obligations.RdcdrResult := by
  refine ⟨rfl, fun s => ?_⟩
  obtain ⟨r, hexec, hdata, herr⟩ := exec_reader (i := .rdcdr) (fun _ => rfl) s
  exact ⟨r, hexec, fun b ha => (hdata _ ha).trans (cdrResult_eq b), herr⟩

theorem intResult_eq {E : Type} (b : Byte) : (intResult #v[b] : Result E) = .okBool (decide (b ≠ 0x00#8)) :=
  congrArg Result.okBool (Bool.eq_iff_iff.mpr ((decInt_iff b).trans decide_eq_true_iff.symm))

/-- Settles O33: the whole INT_STATUS byte is compared with 0. -/
theorem rdintResult : Obligations.RdintResult := by
  refine ⟨rfl, fun s => ?_⟩
  obtain ⟨r, hexec, hdata, herr⟩ := exec_reader (i := .rdint) (fun _ => rfl) s
  exact ⟨r, hexec, fun b ha => (hdata _ ha).trans (intResult_eq b), herr⟩

/-! ## The frame of the readers (R92) -/

/-- Settles O34: each reader is `readRegister`, which does what `afterRead` says and nothing else. -/
theorem readersFrame : Obligations.ReadersFrame := by
  intro i s hi
  simp only [exec_eq_next_iff]
  cases i with
  | rdlux => exact ⟨_, _, _, readRegister_eq _ _ _ s⟩
  | rdtim => exact ⟨_, _, _, readRegister_eq _ _ _ s⟩
  | rdcdr => exact ⟨_, _, _, readRegister_eq _ _ _ s⟩
  | rdint => exact ⟨_, _, _, readRegister_eq _ _ _ s⟩
  | _ => simp at hi

end Sys2Proof.Proofs

/-! PROOF. Refusals and errors (60_exceptions.md): what a refused step sets (R96), and what a failed command keeps (R94, R99). -/

namespace Sys2Proof.Proofs

open Sys2Proof.Machine Sys2Proof.Laws

variable {E : Type}

/-! ## A refused step sets the mark, and no command does (R96) -/

/-- What reads no observation field keeps the mark, whatever it is. -/
theorem refused_of_readsNoObservation {body : Generic.State E → Generic.State E} (h : ReadsNoObservation body)
    (s : Generic.State E) : (body s).refused = s.refused := by
  obtain ⟨new, -, heq⟩ := h s s.result s.busLog s.refused
  exact (congrArg Generic.State.refused heq :)

theorem commandEffect_refused (i : Instr) (s : Generic.State E) : (commandEffect i s).refused = s.refused :=
  refused_of_readsNoObservation (commandEffect_readsNoObservation i) s

/-- Settles O14: both refusals are `refuse`, which keeps a mark that is set, and every command keeps the mark. -/
theorem refusedStepOnlyMarks : Obligations.RefusedStepOnlyMarks := by
  refine ⟨fun s w rest hw hl => ?_, fun s w rest e hw hl hd => ?_, fun i s t h => ?_⟩
  · rw [step_released hw hl, refuse]
    cases s.refused <;> rfl
  · rw [step_illegal hw hl hd, refuse]
    cases s.refused <;> rfl
  · rw [← (exec_eq_next_iff i s t).mp h]
    exact commandEffect_refused i s

/-! ## A transport error and the request that was answered with it (R94, R99) -/

/-- `s` after a command that fails because its request `q` was answered with the error `e`. -/
def afterFailure (s : Generic.State E) (q : BusReq) (e : E) : Generic.State E :=
  { s.logged q (.err e) with result := .errTransport e }

/-- `t` comes from `s` with a transport error exactly when the log gained its request, and then by that failure alone. -/
structure TransportErrorIsAnswer (s t : Generic.State E) : Prop where
  raised : ∀ e, t.result = .errTransport e → ∃ q, t = afterFailure s q e
  answered : ∀ q e, t.busLog = s.busLog ++ [(q, .err e)] → t.result = .errTransport e

theorem afterFailure_transportErrorIsAnswer (s : Generic.State E) (q : BusReq) (e : E) :
    TransportErrorIsAnswer s (afterFailure s q e) where
  raised _ h := ⟨q, by cases h; rfl⟩
  answered q' e' h := by
    obtain ⟨-, rfl⟩ : q = q' ∧ e = e' := by simpa [afterFailure] using h
    rfl

theorem transportErrorIsAnswer_of_noError {s t : Generic.State E} (hresult : ∀ e, t.result ≠ .errTransport e)
    (hlog : ∀ q e, t.busLog ≠ s.busLog ++ [(q, .err e)]) : TransportErrorIsAnswer s t where
  raised e h := absurd h (hresult e)
  answered q e h := absurd h (hlog q e)

theorem writeConfig_transportErrorIsAnswer (v : Byte) (s : Generic.State E) :
    TransportErrorIsAnswer s (writeConfig v s) := by
  rcases writeConfig_cases v s with ⟨-, h⟩ | ⟨e, -, h⟩ <;> rw [h]
  · exact transportErrorIsAnswer_of_noError nofun (by simp)
  · exact afterFailure_transportErrorIsAnswer s _ e

theorem writeIntEnable_transportErrorIsAnswer (b : Bool) (s : Generic.State E) :
    TransportErrorIsAnswer s (writeIntEnable b s) := by
  rcases writeIntEnable_cases b s with ⟨-, h⟩ | ⟨e, -, h⟩ <;> rw [h]
  · exact transportErrorIsAnswer_of_noError nofun (by simp)
  · exact afterFailure_transportErrorIsAnswer s _ e

theorem readRegister_transportErrorIsAnswer (reg : Byte) {n : Nat} {value : Vector Byte n → Result E}
    (hv : ∀ bytes e, value bytes ≠ .errTransport e) (s : Generic.State E) :
    TransportErrorIsAnswer s (readRegister reg n value s) := by
  rcases readRegister_cases reg n value s with ⟨bytes, -, h⟩ | ⟨e, -, h⟩ <;> rw [h]
  · exact transportErrorIsAnswer_of_noError (hv bytes) (by simp)
  · exact afterFailure_transportErrorIsAnswer s _ e

theorem guardManual_transportErrorIsAnswer {body : Generic.State E → Generic.State E} {s : Generic.State E}
    (h : TransportErrorIsAnswer s (body s)) : TransportErrorIsAnswer s (guardManual body s) := by
  rcases guardManual_cases body s with hg | hg <;> rw [hg]
  · exact transportErrorIsAnswer_of_noError nofun (by simp)
  · exact h

theorem commandEffect_transportErrorIsAnswer (i : Instr) (s : Generic.State E) :
    TransportErrorIsAnswer s (commandEffect i s) := by
  cases i with
  | setmeas m => exact writeConfig_transportErrorIsAnswer _ s
  | setcfgm c => exact writeConfig_transportErrorIsAnswer _ s
  | setcdr r => exact guardManual_transportErrorIsAnswer (writeConfig_transportErrorIsAnswer _ s)
  | settim t => exact guardManual_transportErrorIsAnswer (writeConfig_transportErrorIsAnswer _ s)
  | setinten b => exact writeIntEnable_transportErrorIsAnswer b s
  | rdlux => exact readRegister_transportErrorIsAnswer _ (by simp [luxResult]) s
  | rdtim => exact readRegister_transportErrorIsAnswer _ (by simp [timResult]) s
  | rdcdr => exact readRegister_transportErrorIsAnswer _ (by simp [cdrResult]) s
  | rdint => exact readRegister_transportErrorIsAnswer _ (by simp [intResult]) s
  | release => exact transportErrorIsAnswer_of_noError nofun (by simp [commandEffect])

/-! ## A failed command (R94, R99) -/

/-- Only the closed guard raises `ErrNotAvailable`, before any request (R75, R95). -/
theorem commandEffect_notAvailable {i : Instr} {s : Generic.State E}
    (h : (commandEffect i s).result = .errNotAvailable) : commandEffect i s = { s with result := .errNotAvailable } := by
  obtain ⟨hguarded, hclosed⟩ := (commandEffect_result_eq_errNotAvailable_iff i s).mp h
  exact commandEffect_guard_closed hguarded hclosed

/-- Settles O36: a transport error is the answer of the command's request, and `ErrNotAvailable` the closed guard's. -/
theorem failedCommandKeepsState : Obligations.FailedCommandKeepsState := by
  intro i s t h
  obtain rfl := (exec_eq_next_iff i s t).mp h
  obtain ⟨hraised, hanswered⟩ := commandEffect_transportErrorIsAnswer i s
  exact ⟨hraised, hanswered, commandEffect_notAvailable⟩

end Sys2Proof.Proofs

/-! PROOF. What creation leaves (70_reset_and_hazards.md R109, R110). -/

namespace Sys2Proof.Proofs

open Sys2Proof.Machine Sys2Proof.Laws

/-- R110: in the byte 0x00 every field has its zero value. -/
theorem unpack_zero : unpack 0x00#8 = ⟨.onceEvery800ms, .automatic, .one, .t800ms⟩ := by decide

/-- R110: creation resets `CFG` to 0x00, whose fields `unpack_zero` gives. -/
theorem unpack_create_cfg (sel : AddressSelector) :
    unpack (State.create sel).cfg = ⟨.onceEvery800ms, .automatic, .one, .t800ms⟩ := by
  rw [create_cfg, unpack_zero]

/-- Settles O10: the reset value of each state element, and the fields of the reset `CFG`. -/
theorem creationSetsBlock : Obligations.CreationSetsBlock := fun sel =>
  ⟨create_life sel, create_devAddr sel, create_cfg sel, create_result sel, create_busLog sel, create_refused sel,
    unpack_create_cfg sel⟩

end Sys2Proof.Proofs

/-! PROOF. The decoder and the encoder are inverse (R63), they agree with the opcode map (R62), and the assembler's lines are
the commands' own (R65). -/

namespace Sys2Proof.Proofs

open Sys2Proof.Machine Sys2Proof.Laws

/-! ## The encoder, pattern by pattern -/

@[simp] theorem ofBool_beq_one (b : Bool) : (BitVec.ofBool b == 1#1) = b := by cases b <;> rfl

/-- The operand that an F1 pattern decodes to is encoded in the pattern's last bit. -/
theorem encodeWord_f1Patterns (v : BitVec 1) :
    encodeWord (.setmeas (decMeas v)) = 0b0001000#7 ++ v ∧
    encodeWord (.setcfgm (decCfgm v)) = 0b0010000#7 ++ v ∧
    encodeWord (.setcdr (decCdr v)) = 0b0011000#7 ++ v ∧
    encodeWord (.setinten (v == 1#1)) = 0b0101000#7 ++ v := by
  revert v; decide

theorem encodeWord_f3Pattern (t : BitVec 3) : encodeWord (.settim (decTim t)) = 0b01000#5 ++ t := by
  revert t; decide

/-! ## Decoding and encoding are inverse -/

/-- The word of a command fits the pattern of its opcode, with the operand's code in the operand bits. -/
theorem decodeWord_encodeWord (i : Instr) : decodeWord (encodeWord i) = .ok i := by
  cases i with
  | setmeas m =>
    obtain ⟨hdecode, -, -, -⟩ := decodeWord_f1Patterns (encMeas m)
    obtain ⟨hencode, -, -, -⟩ := encodeWord_f1Patterns (encMeas m)
    rwa [← hencode, decMeas_encMeas] at hdecode
  | setcfgm c =>
    obtain ⟨-, hdecode, -, -⟩ := decodeWord_f1Patterns (encCfgm c)
    obtain ⟨-, hencode, -, -⟩ := encodeWord_f1Patterns (encCfgm c)
    rwa [← hencode, decCfgm_encCfgm] at hdecode
  | setcdr r =>
    obtain ⟨-, -, hdecode, -⟩ := decodeWord_f1Patterns (encCdr r)
    obtain ⟨-, -, hencode, -⟩ := encodeWord_f1Patterns (encCdr r)
    rwa [← hencode, decCdr_encCdr] at hdecode
  | settim t =>
    have hdecode := decodeWord_f3Pattern (encTim t)
    rwa [← encodeWord_f3Pattern, decTim_encTim] at hdecode
  | setinten b =>
    obtain ⟨-, -, -, hdecode⟩ := decodeWord_f1Patterns (BitVec.ofBool b)
    obtain ⟨-, -, -, hencode⟩ := encodeWord_f1Patterns (BitVec.ofBool b)
    rwa [← hencode, ofBool_beq_one] at hdecode
  | rdlux => rfl
  | rdtim => rfl
  | rdcdr => rfl
  | rdint => rfl
  | release => rfl

/-- A byte's number is read as that byte (R60). -/
theorem decodeTableWord_toNat (w : Byte) : decodeTableWord 8 w.toNat = (decodeWord w).toOption := by
  rw [decodeTableWord, if_pos ⟨Nat.le_refl 8, w.isLt⟩, BitVec.ofNat_toNat, BitVec.setWidth_eq]

/-- Settles O2: each command's word is decoded by the pattern of its opcode, also through its number. -/
theorem decodeOfEncode : Obligations.DecodeOfEncode := by
  refine fun i _ => ⟨decodeWord_encodeWord i, ?_⟩
  rw [decodeTableWord_toNat, decodeWord_encodeWord]
  rfl

theorem eq_of_decodeWord_eq_ok {w : Byte} {i j : Instr} (hi : decodeWord w = .ok i) (hj : decodeWord w = .ok j) :
    j = i := by
  rw [hi] at hj
  exact (Except.ok.inj hj).symm

/-- A word that decodes has its pattern, and the pattern is what its command is encoded as. -/
theorem encodeWord_of_decodeWord {w : Byte} {i : Instr} (h : decodeWord w = .ok i) : encodeWord i = w := by
  rcases decodeWord_ok_fitsPattern h with ⟨v, rfl | rfl | rfl | rfl⟩ | ⟨t, rfl⟩ | hf0
  · obtain ⟨hdecode, -, -, -⟩ := decodeWord_f1Patterns v
    obtain ⟨hencode, -, -, -⟩ := encodeWord_f1Patterns v
    rw [← eq_of_decodeWord_eq_ok h hdecode, hencode]
  · obtain ⟨-, hdecode, -, -⟩ := decodeWord_f1Patterns v
    obtain ⟨-, hencode, -, -⟩ := encodeWord_f1Patterns v
    rw [← eq_of_decodeWord_eq_ok h hdecode, hencode]
  · obtain ⟨-, -, hdecode, -⟩ := decodeWord_f1Patterns v
    obtain ⟨-, -, hencode, -⟩ := encodeWord_f1Patterns v
    rw [← eq_of_decodeWord_eq_ok h hdecode, hencode]
  · obtain ⟨-, -, -, hdecode⟩ := decodeWord_f1Patterns v
    obtain ⟨-, -, -, hencode⟩ := encodeWord_f1Patterns v
    rw [← eq_of_decodeWord_eq_ok h hdecode, hencode]
  · rw [← eq_of_decodeWord_eq_ok h (decodeWord_f3Pattern t), encodeWord_f3Pattern]
  · simp only [List.mem_cons, List.not_mem_nil, or_false] at hf0
    rcases hf0 with rfl | rfl | rfl | rfl | rfl <;> cases h <;> rfl

/-- Settles O3: the decoder reads every bit of a legal word, and the encoder writes it. -/
theorem encodeOfDecode : Obligations.EncodeOfDecode := fun _ _ => encodeWord_of_decodeWord

/-! ## The opcode map (R62) -/

theorem ownRow (i : Instr) : OwnRow.Statement i := by
  cases i with
  | setmeas m => exact OwnRow.setmeas m
  | setcfgm c => exact OwnRow.setcfgm c
  | setcdr r => exact OwnRow.setcdr r
  | settim t => exact OwnRow.settim t
  | setinten b => exact OwnRow.setinten b
  | rdlux => exact OwnRow.rdlux
  | rdtim => exact OwnRow.rdtim
  | rdcdr => exact OwnRow.rdcdr
  | rdint => exact OwnRow.rdint
  | release => exact OwnRow.release

/-- One row accepts a word that decodes, and it has the command's mnemonic. -/
theorem acceptingRows_of_decodeWord {w : Byte} {i : Instr} (h : decodeWord w = .ok i) :
    ∃ r, r.mnemonic = mnemonicOf i ∧ ∀ r', r' ∈ opcodeMap ∧ r'.accepts w = true ↔ r' = r := by
  obtain ⟨-, -, hrows⟩ := ownRow i
  rw [encodeWord_of_decodeWord h] at hrows
  obtain ⟨r, hfilter, hname⟩ := List.map_eq_singleton_iff.mp hrows
  refine ⟨r, hname, fun r' => ?_⟩
  rw [← List.mem_filter (p := fun x => OpRow.accepts x w), hfilter, List.mem_singleton]

/-! A word is what the mask of its row leaves of it, with the operand bits under the mask's zeros. -/

theorem eq_append_of_and_f1Mask {w m : Byte} (h : w &&& 0xFE#8 = m) : w = m.extractLsb' 1 7 ++ f1Operand w := by
  subst h; revert w; decide

theorem eq_append_of_and_f3Mask {w m : Byte} (h : w &&& 0xF8#8 = m) : w = m.extractLsb' 3 5 ++ f3Operand w := by
  subst h; revert w; decide

theorem eq_of_and_f0Mask {w m : Byte} (h : w &&& 0xFF#8 = m) : w = m :=
  (BitVec.and_allOnes (x := w)).symm.trans h

/-- A row that accepts a word fixes its pattern. -/
theorem decodeWord_of_accepts {w : Byte} {r : OpRow} (hr : r ∈ opcodeMap) (h : r.accepts w = true) :
    ∃ i, decodeWord w = .ok i := by
  replace h := beq_iff_eq.mp h
  simp only [opcodeMap, List.cons_append, List.nil_append, List.mem_cons, List.not_mem_nil, or_false] at hr
  obtain ⟨hmeas, hcfgm, hcdr, hinten⟩ := decodeWord_f1Patterns (f1Operand w)
  rcases hr with rfl | rfl | rfl | rfl | rfl | rfl | rfl | rfl | rfl | rfl
  · rw [eq_append_of_and_f1Mask h]; exact ⟨_, hmeas⟩
  · rw [eq_append_of_and_f1Mask h]; exact ⟨_, hcfgm⟩
  · rw [eq_append_of_and_f1Mask h]; exact ⟨_, hcdr⟩
  · rw [eq_append_of_and_f3Mask h]; exact ⟨_, decodeWord_f3Pattern _⟩
  · rw [eq_append_of_and_f1Mask h]; exact ⟨_, hinten⟩
  · rw [eq_of_and_f0Mask h]; exact ⟨.rdlux, rfl⟩
  · rw [eq_of_and_f0Mask h]; exact ⟨.rdtim, rfl⟩
  · rw [eq_of_and_f0Mask h]; exact ⟨.rdcdr, rfl⟩
  · rw [eq_of_and_f0Mask h]; exact ⟨.rdint, rfl⟩
  · rw [eq_of_and_f0Mask h]; exact ⟨.release, rfl⟩

/-- Settles O5: a row that accepts a word makes it decode, and a word that decodes has its own row alone. -/
theorem decodeAgreesWithOpcodeMap : Obligations.DecodeAgreesWithOpcodeMap := by
  refine ⟨fun w => ⟨fun ⟨i, h⟩ => ?_, fun ⟨r, hr, ha⟩ => decodeWord_of_accepts hr ha⟩, fun w i r h hr ha => ?_,
    fun w r r' hr hr' ha ha' => ?_⟩
  · obtain ⟨r, -, hrow⟩ := acceptingRows_of_decodeWord h
    exact ⟨r, (hrow r).mpr rfl⟩
  · obtain ⟨r₀, hname, hrow⟩ := acceptingRows_of_decodeWord h
    rw [(hrow r).mp ⟨hr, ha⟩, hname]
  · obtain ⟨i, h⟩ := decodeWord_of_accepts hr ha
    obtain ⟨r₀, -, hrow⟩ := acceptingRows_of_decodeWord h
    rw [(hrow r).mp ⟨hr, ha⟩, (hrow r').mp ⟨hr', ha'⟩]

/-! ## Assembler lines (R65) -/

theorem mem_of_named {α : Type} {table : List (String × α)} {name : String} {a : α} (h : named table name = some a) :
    (name, a) ∈ table := by
  obtain ⟨⟨name', a'⟩, hfind, rfl⟩ := Option.map_eq_some_iff.mp h
  have hname := List.find?_some hfind
  rw [← (beq_iff_eq.mp hname : name' = name)]
  exact List.mem_of_find?_eq_some hfind

/-- A line with an operand is parsed through the table of the operand's names, in which each value has one name. -/
theorem eq_own_of_named_map {α : Type} [DecidableEq α] {table : List (String × α)} {command : α → Instr}
    {mnemonic name : String} {i : Instr} (hunique : ∀ e ∈ table, nameIn table e.2 = some e.1)
    (hmnemonic : ∀ a, mnemonicOf (command a) = mnemonic) (hoperand : ∀ a, operandNameOf (command a) = nameIn table a)
    (h : (named table name).map command = some i) : mnemonic = mnemonicOf i ∧ some name = operandNameOf i := by
  obtain ⟨a, hnamed, rfl⟩ := Option.map_eq_some_iff.mp h
  exact ⟨(hmnemonic a).symm, (hunique _ (mem_of_named hnamed)).symm.trans (hoperand a).symm⟩

theorem f0Names_own : ∀ e ∈ f0Names, e.1 = mnemonicOf e.2 ∧ none = operandNameOf e.2 := by decide

theorem parseLine_own (i : Instr) : parseLine (mnemonicOf i) (operandNameOf i) = some i := by
  cases i with
  | setmeas m => cases m <;> decide
  | setcfgm c => cases c <;> decide
  | setcdr r => cases r <;> decide
  | settim t => cases t <;> decide
  | setinten b => cases b <;> decide
  | rdlux => decide
  | rdtim => decide
  | rdcdr => decide
  | rdint => decide
  | release => decide

/-- A line is parsed through the one table that its mnemonic names. -/
theorem eq_own_of_parseLine {mnemonic : String} {operand : Option String} {i : Instr}
    (h : parseLine mnemonic operand = some i) : mnemonic = mnemonicOf i ∧ operand = operandNameOf i := by
  cases operand with
  | none => exact f0Names_own _ (mem_of_named h)
  | some o =>
    simp only [parseLine, beq_iff_eq] at h
    split at h
    next hm => rw [hm]; exact eq_own_of_named_map (by decide) (fun _ => rfl) (fun _ => rfl) h
    split at h
    next hm => rw [hm]; exact eq_own_of_named_map (by decide) (fun _ => rfl) (fun _ => rfl) h
    split at h
    next hm => rw [hm]; exact eq_own_of_named_map (by decide) (fun _ => rfl) (fun _ => rfl) h
    split at h
    next hm => rw [hm]; exact eq_own_of_named_map (by decide) (fun _ => rfl) (fun _ => rfl) h
    split at h
    next hm => rw [hm]; exact eq_own_of_named_map (by decide) (fun _ => rfl) (fun _ => rfl) h
    next => cases h

/-- Settles O8: a line assembles to the word of the command that it is parsed as, and it is that command's own line. -/
theorem assemblerLines : Obligations.AssemblerLines := by
  refine ⟨fun i => ?_, fun mnemonic operand w h => ?_⟩
  · rw [assembleLine, parseLine_own, Option.map_some]
  · obtain ⟨i, hparse, rfl⟩ := Option.map_eq_some_iff.mp h
    obtain ⟨hmnemonic, hoperand⟩ := eq_own_of_parseLine hparse
    exact ⟨i, hmnemonic, hoperand, rfl⟩

/-! ## The vectors of V1 -/

/-- Settles O1: each listed word is a closed case of the decoder. -/
theorem decodesListedWords : Obligations.DecodesListedWords := by
  refine ⟨?_, ?_, ?_⟩ <;> decide

end Sys2Proof.Proofs

/-! PROOF. The step around a command (40_lifecycle.md R66, R70, R109): what it runs, when it stops, and that nothing of it
depends on the error type (D7). -/

namespace Sys2Proof.Proofs

open Sys2Proof.Machine Sys2Proof.Laws

variable {E : Type}

/-! ## A creation and a decoded word (R66, R109) -/

/-- Settles O11: the input taken off, a creation is `recreate`, which keeps the inputs alone. -/
theorem creationStep : Obligations.CreationStep := fun s sel rest h => step_creation s sel rest h

theorem step_decoded {s : State} {w : Byte} {rest : List HostInput} {i : Instr}
    (hw : s.host = .word w :: rest) (hl : s.life = .live) (hd : decodeWord w = .ok i) :
    step s = exec i { s with host := rest } := by
  rw [step_word s w rest hw]
  simp only [stepWord, hl, hd]

/-- Settles O12: a live block decodes the word, and what it decodes to is run. -/
theorem stepRunsDecodedCommand : Obligations.StepRunsDecodedCommand := fun _ _ _ _ hw hl _ hd => step_decoded hw hl hd

theorem decodeWord_of_decodeTableWord {w : Nat} {i : Instr} (h : decodeTableWord 8 w = some i) :
    decodeWord (BitVec.ofNat 8 (w % 2 ^ 8)) = .ok i := by
  unfold decodeTableWord at h
  split at h
  next hw =>
    rw [Nat.mod_eq_of_lt hw.2]
    cases hd : decodeWord (BitVec.ofNat 8 w) with
    | error e => rw [hd] at h; cases h
    | ok j => rw [hd] at h; cases h; rfl
  next => cases h

/-- Settles O13: the placed word stands before the host's other inputs, which the step leaves as they were. -/
theorem placedWordRunsNext : Obligations.PlacedWordRunsNext :=
  fun _ _ _ hl hd => step_decoded (handOver_host _ _) hl (decodeWord_of_decodeTableWord hd)

/-! ## The machine over any error type (R7, D7) -/

theorem genericExec_eq_next_commandEffect (i : Instr) (s : Generic.State E) :
    Generic.exec i s = .next (commandEffect i s) := by
  cases i <;> rfl

theorem step_generic (s : State) : step s = Generic.step s :=
  congrArg (stepHost · s) (funext₂ exec_generic)

/-- With an input, the step refuses a word, runs a command, or creates the block anew: each answers a next state. -/
theorem genericStep_next {s : Generic.State E} (h : s.host ≠ []) : ∃ t, Generic.step s = .next t := by
  unfold Generic.step stepHost
  split
  next hnone => exact absurd hnone h
  next w rest hw =>
    unfold stepWord
    split
    next => exact ⟨_, rfl⟩
    next =>
      split
      next => exact ⟨_, rfl⟩
      next i hd => exact ⟨_, genericExec_eq_next_commandEffect i _⟩
  next => exact ⟨_, rfl⟩

theorem genericStep_stops {s : Generic.State E} (h : s.host = []) : Generic.step s = .fault .noCommand := by
  simp only [Generic.step, stepHost, h]

/-- Settles O51: every command completes in the state that its body leaves, over every error type. -/
theorem errorTypeIsParameter : Obligations.ErrorTypeIsParameter :=
  ⟨exec_generic, step_generic, fun _ i s => ⟨_, genericExec_eq_next_commandEffect i s⟩,
    fun _ _ => genericStep_stops, fun _ _ => genericStep_next⟩

/-- Settles O15: the machine of the host's interface stops as the generic one does. -/
theorem stopsOnlyWithoutInput : Obligations.StopsOnlyWithoutInput := by
  refine ⟨fun s h => ?_, fun s h => ?_⟩ <;> rw [step_generic]
  · exact genericStep_stops h
  · exact genericStep_next h

/-! ## The oracle (R32) -/

/-- Settles O41: an answer that is settled next is given, and no other field than the oracle's is read. -/
theorem oracleAnswersAreFree : Obligations.OracleAnswersAreFree := by
  refine fun E => ⟨fun s a => ⟨[a.toBus], writeAnswer_settled _ a [] rfl⟩,
    fun s n a => ⟨[a.toBus], readAnswer_settled _ a [] rfl⟩, fun s t ha hd => ⟨?_, fun n => ?_⟩⟩
  · rw [Generic.State.writeAnswer, Generic.State.writeAnswer, ha, hd]
  · rw [Generic.State.readAnswer, Generic.State.readAnswer, ha, hd]

/-! ## A released block (R70) -/

/-- Settles O17, by induction on the number of words: the first one sets the mark, if it is not set, and the others find it
set. -/
theorem releasedForever : Obligations.ReleasedForever := by
  intro k
  induction k with
  | zero => exact fun _ _ _ _ => rfl
  | succ k ih =>
    intro s hl hwords hk
    match hhost : s.host with
    | [] => rw [hhost] at hk; cases hk
    | x :: rest =>
      rw [wordsOnly, hhost, List.forall_mem_cons] at hwords
      obtain ⟨⟨w, rfl⟩, hrest⟩ := hwords
      rw [hhost, List.length_cons, Nat.add_le_add_iff_right] at hk
      rw [run_succ k s _ (step_released hhost hl), ih (refuse .afterRelease { s with host := rest }) hl hrest hk]
      cases k <;> simp [refuse]

/-! ## Renaming of error values (D7) -/

theorem guardManual_mapErrors {F : Type} (f : E → F) {body : Generic.State E → Generic.State E}
    {body' : Generic.State F → Generic.State F} {s : Generic.State E}
    (h : body' (s.mapErrors f) = (body s).mapErrors f) :
    guardManual body' (s.mapErrors f) = (guardManual body s).mapErrors f := by
  cases hs : s.cfg.getLsbD 6 with
  | false => rw [guardManual_closed body s hs, guardManual_closed body' (s.mapErrors f) hs]; rfl
  | true => rw [guardManual_open body s hs, guardManual_open body' (s.mapErrors f) hs, h]

/-- Renaming before a command is renaming after it. -/
theorem commandEffect_mapErrors {F : Type} (f : E → F) {i : Instr} {s : Generic.State E} (h : answerRenamed f s i) :
    commandEffect i (s.mapErrors f) = (commandEffect i s).mapErrors f := by
  cases i with
  | setmeas m => exact writeConfig_mapErrors f _ s h
  | setcfgm c => exact writeConfig_mapErrors f _ s h
  | setcdr r => exact guardManual_mapErrors f (writeConfig_mapErrors f _ s h)
  | settim t => exact guardManual_mapErrors f (writeConfig_mapErrors f _ s h)
  | setinten b => exact writeIntEnable_mapErrors f b s h
  | rdlux => exact readRegister_mapErrors f _ _ _ _ s (fun _ => rfl) h
  | rdtim => exact readRegister_mapErrors f _ _ _ _ s (fun _ => rfl) h
  | rdcdr => exact readRegister_mapErrors f _ _ _ _ s (fun _ => rfl) h
  | rdint => exact readRegister_mapErrors f _ _ _ _ s (fun _ => rfl) h
  | release => rfl

/-- The oracle does not read the host's list. -/
theorem answerRenamed_host {F : Type} {f : E → F} {s : Generic.State E} {i : Instr} (h : answerRenamed f s i)
    (rest : List HostInput) : answerRenamed f { s with host := rest } i := by
  cases i <;> exact h

/-- Renaming before a word's step is renaming after it: `LIFE` and the word choose the case, and neither is renamed. -/
theorem stepWord_mapErrors {F : Type} (f : E → F) {w : Byte} {s t : Generic.State E}
    (h : ∀ i, decodeWord w = .ok i → answerRenamed f s i) (ht : stepWord Generic.exec w s = .next t) :
    stepWord Generic.exec w (s.mapErrors f) = .next (t.mapErrors f) := by
  rcases stepWord_eq_next_cases ht with ⟨hl, rfl⟩ | ⟨hl, ⟨e, hd⟩, rfl⟩ | ⟨hl, i, hd, hi⟩
  · simp only [stepWord, mapErrors_life, hl]; rfl
  · simp only [stepWord, mapErrors_life, hl, hd]; rfl
  · rw [genericExec_eq_next_commandEffect] at hi
    cases hi
    simp only [stepWord, mapErrors_life, hl, hd, genericExec_eq_next_commandEffect, commandEffect_mapErrors f (h i hd)]

theorem genericStep_mapErrors {F : Type} (f : E → F) {s t : Generic.State E}
    (h : ∀ w rest i, s.host = .word w :: rest → decodeWord w = .ok i → answerRenamed f s i)
    (ht : Generic.step s = .next t) : Generic.step (s.mapErrors f) = .next (t.mapErrors f) := by
  match hhost : s.host with
  | [] => rw [genericStep_stops hhost] at ht; cases ht
  | .word w :: rest =>
    simp only [Generic.step, stepHost, mapErrors_host, hhost] at ht ⊢
    exact stepWord_mapErrors f (fun i hd => answerRenamed_host (h w rest i hhost hd) rest) ht
  | .create sel :: rest =>
    simp only [Generic.step, stepHost, mapErrors_host, hhost] at ht ⊢
    cases ht
    rfl

/-- Settles O50: renaming commutes with each body, and with each case of the step. -/
theorem errorValuesUninterpreted : Obligations.ErrorValuesUninterpreted := by
  refine fun E F f s => ⟨fun i h => ⟨commandEffect i s, genericExec_eq_next_commandEffect i s, ?_⟩,
    fun h t ht => genericStep_mapErrors f h ht⟩
  rw [genericExec_eq_next_commandEffect, commandEffect_mapErrors f h]

end Sys2Proof.Proofs

/-! PROOF. The invariant of the block (10_state.md, 20_memory.md, 60_exceptions.md), and the traffic of a run (R38, R43). -/

namespace Sys2Proof.Proofs

open Sys2Proof.Machine Sys2Proof.Laws

variable {E : Type}

/-! ## What a command can leave -/

/-- The shape of the requests that exist (R36): a 2-byte write, or a read with a 1-byte write part, to `addr`. -/
def RequestShape (addr : Addr7) : BusReq → Prop
  | .write a bytes => a = addr ∧ bytes.length = 2
  | .writeRead a wbytes _ => a = addr ∧ wbytes.length = 1

/-- All that a command can leave of `s`: the effect of one answered request, with a result that is not RELEASE's; or the
closed guard's error; or a released block. -/
inductive CommandLeaves (s : Generic.State E) : Generic.State E → Prop
  | answered (q : BusReq) (a : BusAnswer E) (r : Result E) (shape : RequestShape s.devAddr q)
      (legal : s.cfg &&& 0x30#8 = 0#8 → requestLegal s.devAddr q = true) (fits : answerFits q a = true)
      (someResult : r ≠ .none) (notReleased : r ≠ .okReleased) :
      CommandLeaves s { s.logged q a with cfg := configAfter s.cfg (q, a), result := r }
  | unavailable : CommandLeaves s { s with result := .errNotAvailable }
  | released : CommandLeaves s { s with life := .released, result := .okReleased }

theorem writeResult_ne_okReleased (a : WriteAnswer E) : writeResult a ≠ .okReleased := by
  cases a <;> exact nofun

theorem readResult_ne_okReleased {n : Nat} {value : Vector Byte n → Result E} (hv : ∀ bytes, value bytes ≠ .okReleased)
    (a : ReadAnswer E n) : readResult value a ≠ .okReleased := by
  cases a with
  | data bytes => exact hv bytes
  | err e => exact nofun

theorem cfgAfterWrite_eq_configAfter (v c : Byte) (addr : Addr7) (a : WriteAnswer E) :
    cfgAfterWrite v c a = configAfter c (.write addr [0x02#8, v], a.toBus) := by
  cases a <;> rfl

theorem configAfter_write_intEnable (v c : Byte) (addr : Addr7) (a : WriteAnswer E) :
    configAfter c (.write addr [0x01#8, v], a.toBus) = c := by
  cases a <;> rfl

/-- R21: the byte of a configuration write carries the reserved bits of `CFG`. -/
theorem writeConfig_leaves {v : Byte} {s : Generic.State E} (hv : v &&& 0x30#8 = s.cfg &&& 0x30#8) :
    CommandLeaves s (writeConfig v s) := by
  rw [writeConfig_eq, afterWrite, cfgAfterWrite_eq_configAfter v s.cfg s.devAddr]
  exact .answered _ _ _ ⟨rfl, rfl⟩ (fun hclear => by simp [requestLegal, hv, hclear]) (writeAnswer_fits _ _ _)
    (writeResult_ne_none _) (writeResult_ne_okReleased _)

theorem writeIntEnable_leaves (b : Bool) (s : Generic.State E) : CommandLeaves s (writeIntEnable b s) := by
  have hcfg := configAfter_write_intEnable (encInten b) s.cfg s.devAddr s.writeAnswer
  rw [writeIntEnable_eq, afterWrite, ← hcfg]
  exact .answered _ _ _ ⟨rfl, rfl⟩ (fun _ => by cases b <;> simp [requestLegal, encInten]) (writeAnswer_fits _ _ _)
    (writeResult_ne_none _) (writeResult_ne_okReleased _)

theorem readRegister_leaves {reg : Byte} {n : Nat} {value : Vector Byte n → Result E} (s : Generic.State E)
    (hlegal : ∀ addr, requestLegal addr (.writeRead addr [reg] n) = true) (hnone : ∀ bytes, value bytes ≠ .none)
    (hreleased : ∀ bytes, value bytes ≠ .okReleased) : CommandLeaves s (readRegister reg n value s) := by
  rw [readRegister_eq]
  exact .answered (.writeRead s.devAddr [reg] n) _ _ ⟨rfl, rfl⟩ (fun _ => hlegal _) (readAnswer_fits _ _ _)
    (readResult_ne_none hnone _) (readResult_ne_okReleased hreleased _)

theorem guardManual_leaves {body : Generic.State E → Generic.State E} {s : Generic.State E}
    (h : CommandLeaves s (body s)) : CommandLeaves s (guardManual body s) := by
  rcases guardManual_cases body s with hg | hg <;> rw [hg]
  · exact .unavailable
  · exact h

theorem and_eq_and_of_getLsbD {x y m : Byte} (h : ∀ j, m.getLsbD j = true → x.getLsbD j = y.getLsbD j) :
    x &&& m = y &&& m := by
  refine BitVec.eq_of_getLsbD_eq fun j _ => ?_
  rw [BitVec.getLsbD_and, BitVec.getLsbD_and]
  cases hj : m.getLsbD j with
  | false => rw [Bool.and_false, Bool.and_false]
  | true => rw [h j hj]

/-- A mask without the reserved bits leaves them. -/
theorem upd1_reserved {c mask : Byte} (b : BitVec 1) (hmask : mask &&& 0x30#8 = 0#8) :
    upd1 c mask b &&& 0x30#8 = c &&& 0x30#8 := by
  refine and_eq_and_of_getLsbD fun j hj => ?_
  have hclear : mask.getLsbD j = false := by simpa [hj] using congrArg (BitVec.getLsbD · j) hmask
  rw [upd1_getLsbD, hclear, if_neg Bool.false_ne_true]

/-- The reserved bits lie above a time's code. -/
theorem updTim_reserved (c : Byte) (k : BitVec 3) : updTim c k &&& 0x30#8 = c &&& 0x30#8 := by
  refine and_eq_and_of_getLsbD fun j hj => ?_
  have hlow : ∀ j < 3, (0x30#8).getLsbD j = false := by decide
  rw [updTim_getLsbD, if_neg fun h => by simp [hlow j h] at hj]

theorem commandEffect_leaves (i : Instr) (s : Generic.State E) : CommandLeaves s (commandEffect i s) := by
  cases i with
  | setmeas m => exact writeConfig_leaves (upd1_reserved _ (by decide))
  | setcfgm c => exact writeConfig_leaves (upd1_reserved _ (by decide))
  | setcdr r => exact guardManual_leaves (writeConfig_leaves (upd1_reserved _ (by decide)))
  | settim t => exact guardManual_leaves (writeConfig_leaves (updTim_reserved _ _))
  | setinten b => exact writeIntEnable_leaves b s
  | rdlux => exact readRegister_leaves s (by simp [requestLegal, Config.luxHigh]) luxResult_ne_none (by simp [luxResult])
  | rdtim =>
    exact readRegister_leaves s (by simp [requestLegal, Config.configuration]) timResult_ne_none (by simp [timResult])
  | rdcdr =>
    exact readRegister_leaves s (by simp [requestLegal, Config.configuration]) cdrResult_ne_none (by simp [cdrResult])
  | rdint => exact readRegister_leaves s (by simp [requestLegal, Config.intStatus]) intResult_ne_none (by simp [intResult])
  | release => exact .released

/-! ## The invariant, case by case of the step -/

/-- R21: a legal request writes no reserved bit to CONFIGURATION. -/
theorem configAfter_reserved {addr : Addr7} {c : Byte} {q : BusReq} (a : BusAnswer E)
    (hq : requestLegal addr q = true) (hc : c &&& 0x30#8 = 0#8) : configAfter c (q, a) &&& 0x30#8 = 0#8 := by
  unfold configAfter
  split
  next addr' reg v heq =>
    obtain ⟨rfl, -⟩ := Prod.mk.inj heq
    split
    next hreg =>
      obtain ⟨-, hv⟩ : addr' = addr ∧ v &&& 0x30#8 = 0#8 := by simpa [requestLegal, hreg] using hq
      exact hv
    next => exact hc
  next => exact hc

/-- A live block's command keeps the invariant. -/
theorem commandLeaves_keepsInv {s t : Generic.State E} (hinv : BlockInv s) (hl : s.life = .live)
    (h : CommandLeaves s t) : BlockInv t := by
  obtain ⟨hreserved, haddr, hlast, hlegal, -, hmark, -⟩ := hinv
  have hlive : s.life ≠ .released := by rw [hl]; exact nofun
  cases h with
  | answered q a r shape legal fits someResult notReleased =>
    have hq := legal hreserved
    exact {
      reservedClear := configAfter_reserved a hq hreserved
      addressKnown := haddr
      cfgIsLastWritten := by rw [logged_busLog, lastConfig_append, hlast]
      logLegal := by
        intro entry hentry
        rcases List.mem_append.mp hentry with hold | hnew
        · exact hlegal entry hold
        · rw [List.mem_singleton.mp hnew]
          exact ⟨hq, fits⟩
      releasedResult := iff_of_false hlive notReleased
      afterReleaseMark := hmark
      freshLogEmpty := fun hnone => absurd hnone someResult }
  | unavailable =>
    exact ⟨hreserved, haddr, hlast, hlegal, iff_of_false hlive nofun, hmark, nofun⟩
  | released => exact ⟨hreserved, haddr, hlast, hlegal, iff_of_true rfl rfl, fun _ => rfl, nofun⟩

/-- A refusal keeps the invariant when the mark it would set may stand. -/
theorem refuse_keepsInv {r : RefuseReason} {s : Generic.State E} (hinv : BlockInv s)
    (hr : r = .afterRelease → s.life = .released) : BlockInv (refuse r s) where
  reservedClear := hinv.reservedClear
  addressKnown := hinv.addressKnown
  cfgIsLastWritten := hinv.cfgIsLastWritten
  logLegal := hinv.logLegal
  releasedResult := hinv.releasedResult
  afterReleaseMark hm := by
    rw [refuse_refused] at hm
    cases hs : s.refused with
    | none => rw [hs] at hm; exact hr (Option.some.inj hm)
    | some r' => rw [hs] at hm; exact hinv.afterReleaseMark (hs.trans hm)
  freshLogEmpty := hinv.freshLogEmpty

theorem resolveAddr_known (sel : AddressSelector) : resolveAddr sel = 0x4A#7 ∨ resolveAddr sel = 0x4B#7 := by
  by_cases h : sel = .alternative true
  · rw [h]; exact .inr resolveAddr_alternative_true
  · exact .inl (resolveAddr_of_ne h)

/-- A creation meets the invariant whatever the block was. -/
theorem recreate_inv (sel : AddressSelector) (s : Generic.State E) : BlockInv (recreate sel s) where
  reservedClear := (by decide : 0x00#8 &&& 0x30#8 = 0#8)
  addressKnown := resolveAddr_known sel
  cfgIsLastWritten := rfl
  logLegal := nofun
  releasedResult := iff_of_false nofun nofun
  afterReleaseMark := nofun
  freshLogEmpty _ := rfl

theorem create_withInputs_inv (sel : AddressSelector) (words : List Byte) (answers : List (BusAnswer BusError)) :
    BlockInv ((State.create sel).withInputs words answers) :=
  recreate_inv sel ((State.create sel).withInputs words answers)

/-- Settles O46: a created block is what a creation leaves, whatever inputs are placed. -/
theorem invAtCreation : Obligations.InvAtCreation := ⟨create_withInputs_inv, recreate_inv .default State.reset⟩

/-- The invariant does not speak of the host's list. -/
theorem blockInv_host {s : Generic.State E} (hinv : BlockInv s) (rest : List HostInput) :
    BlockInv { s with host := rest } := by
  obtain ⟨hreserved, haddr, hlast, hlegal, hreleased, hmark, hfresh⟩ := hinv
  exact ⟨hreserved, haddr, hlast, hlegal, hreleased, hmark, hfresh⟩

theorem stepWord_keepsInv {w : Byte} {s t : State} (hinv : BlockInv s) (h : stepWord exec w s = .next t) :
    BlockInv t := by
  rcases stepWord_eq_next_cases h with ⟨hl, rfl⟩ | ⟨-, -, rfl⟩ | ⟨hl, i, -, hi⟩
  · exact refuse_keepsInv hinv fun _ => hl
  · exact refuse_keepsInv hinv nofun
  · obtain rfl := (exec_eq_next_iff i s t).mp hi
    exact commandLeaves_keepsInv hinv hl (commandEffect_leaves i s)

/-- What a step can answer as a next state: what a word leaves, or a created block. -/
theorem step_eq_next_cases {s t : State} (h : step s = .next t) :
    (∃ w rest, s.host = .word w :: rest ∧ stepWord exec w { s with host := rest } = .next t) ∨
    (∃ sel rest, s.host = .create sel :: rest ∧ t = recreate sel { s with host := rest }) := by
  match hhost : s.host with
  | [] => rw [step_generic, genericStep_stops hhost] at h; cases h
  | .word w :: rest => exact .inl ⟨w, rest, rfl, by rw [← step_word s w rest hhost, h]⟩
  | .create sel :: rest =>
    rw [step_creation s sel rest hhost] at h
    cases h
    exact .inr ⟨sel, rest, rfl, rfl⟩

theorem step_keepsInv {s t : State} (hinv : BlockInv s) (h : step s = .next t) : BlockInv t := by
  rcases step_eq_next_cases h with ⟨w, rest, -, hw⟩ | ⟨sel, rest, -, rfl⟩
  · exact stepWord_keepsInv (blockInv_host hinv rest) hw
  · exact recreate_inv sel _

/-- Settles O47: a refusal, a command and a creation each keep the invariant. -/
theorem invKeptByEveryStep : Obligations.InvKeptByEveryStep := fun _ _ => step_keepsInv

/-! ## The traffic of a run (R38, R43) -/

/-- `t` comes from `s` with `DEV_ADDR` kept and the entries `new` added to the log, each a request to `DEV_ADDR` with an
answer that fits it. -/
def LogGrowsBy (s t : Generic.State E) (new : List (BusReq × BusAnswer E)) : Prop :=
  t.devAddr = s.devAddr ∧ t.busLog = s.busLog ++ new ∧
    ∀ entry ∈ new, answerFits entry.1 entry.2 = true ∧ RequestShape s.devAddr entry.1

theorem logGrowsBy_nil {s t : Generic.State E} (haddr : t.devAddr = s.devAddr) (hlog : t.busLog = s.busLog) :
    LogGrowsBy s t [] :=
  ⟨haddr, by rw [hlog, List.append_nil], nofun⟩

theorem logGrowsBy_trans {s t u : Generic.State E} {new new' : List (BusReq × BusAnswer E)}
    (h : LogGrowsBy s t new) (h' : LogGrowsBy t u new') : LogGrowsBy s u (new ++ new') := by
  obtain ⟨haddr, hlog, hnew⟩ := h
  obtain ⟨haddr', hlog', hnew'⟩ := h'
  rw [haddr] at haddr' hnew'
  refine ⟨haddr', by rw [hlog', hlog, List.append_assoc], fun entry hentry => ?_⟩
  rcases List.mem_append.mp hentry with h | h
  · exact hnew entry h
  · exact hnew' entry h

/-- A word takes no other input, and adds the one request of its command or nothing. -/
theorem stepWord_logGrows {w : Byte} {s t : State} (h : stepWord exec w s = .next t) :
    t.host = s.host ∧ ∃ new, LogGrowsBy s t new ∧ new.length ≤ 1 := by
  rcases stepWord_eq_next_cases h with ⟨-, rfl⟩ | ⟨-, -, rfl⟩ | ⟨-, i, -, hi⟩
  · exact ⟨rfl, [], logGrowsBy_nil rfl rfl, Nat.zero_le 1⟩
  · exact ⟨rfl, [], logGrowsBy_nil rfl rfl, Nat.zero_le 1⟩
  · rw [exec_eq_next_iff] at hi
    have hleaves := commandEffect_leaves i s
    rw [hi] at hleaves
    cases hleaves with
    | answered q a r shape legal fits =>
      refine ⟨rfl, [(q, a)], ⟨rfl, rfl, fun entry hentry => ?_⟩, Nat.le_refl 1⟩
      rw [List.mem_singleton.mp hentry]
      exact ⟨fits, shape⟩
    | unavailable => exact ⟨rfl, [], logGrowsBy_nil rfl rfl, Nat.zero_le 1⟩
    | released => exact ⟨rfl, [], logGrowsBy_nil rfl rfl, Nat.zero_le 1⟩

theorem step_logGrows {s t : State} (hwords : wordsOnly s) (h : step s = .next t) :
    wordsOnly t ∧ ∃ new, LogGrowsBy s t new ∧ new.length ≤ 1 := by
  unfold wordsOnly at hwords ⊢
  rcases step_eq_next_cases h with ⟨w, rest, hhost, hw⟩ | ⟨sel, rest, hhost, -⟩ <;>
    rw [hhost, List.forall_mem_cons] at hwords
  · obtain ⟨hkept, hlog⟩ := stepWord_logGrows hw
    exact ⟨by rw [hkept]; exact hwords.2, hlog⟩
  · obtain ⟨⟨w, hcreate⟩, -⟩ := hwords
    cases hcreate

theorem run_logGrows {k : Nat} {s t : State} (hwords : wordsOnly s) (h : core.run k s = .next t) :
    ∃ new, LogGrowsBy s t new ∧ new.length ≤ k := by
  induction k generalizing s with
  | zero => cases h; exact ⟨[], logGrowsBy_nil rfl rfl, Nat.zero_le 0⟩
  | succ k ih =>
    obtain ⟨u, hstep, hrun⟩ := run_succ_next k s t h
    obtain ⟨hwords', first, hfirst, hone⟩ := step_logGrows hwords hstep
    obtain ⟨later, hlater, hk⟩ := ih hwords' hrun
    refine ⟨first ++ later, logGrowsBy_trans hfirst hlater, ?_⟩
    rw [List.length_append]
    omega

/-- Settles O39, by induction on the number of words: each adds at most one request to the log. -/
theorem logGrowsInOrder : Obligations.LogGrowsInOrder := by
  intro k s t hwords h
  obtain ⟨new, ⟨-, hlog, hnew⟩, hk⟩ := run_logGrows hwords h
  refine ⟨new, hlog, hk, fun entry hentry => ?_⟩
  obtain ⟨hfits, hshape⟩ := hnew entry hentry
  obtain ⟨q, a⟩ := entry
  exact ⟨hfits, by cases q <;> exact hshape⟩

end Sys2Proof.Proofs

/-! PROOF. What successful setters make of the fields of `CFG` (R73, R76 to R79), and the bytes that a run can reach (R22). -/

namespace Sys2Proof.Proofs

open Sys2Proof.Machine Sys2Proof.Laws

variable {E : Type}

/-! ## The fields of a byte, by its bits -/

theorem extractLsb'_one (b : Byte) (k : Nat) : b.extractLsb' k 1 = BitVec.ofBool (b.getLsbD k) := by
  refine BitVec.eq_of_getLsbD_eq fun j hj => ?_
  obtain rfl : j = 0 := by omega
  rw [BitVec.getLsbD_extractLsb', BitVec.getLsbD_ofBool]
  simp

/-- The fields of a byte are its bits 7, 6 and 3 and its bits 2:0. -/
theorem unpack_eq (b : Byte) :
    unpack b = ⟨decMeas (BitVec.ofBool (b.getLsbD 7)), decCfgm (BitVec.ofBool (b.getLsbD 6)),
      decCdr (BitVec.ofBool (b.getLsbD 3)), decTim (b.extractLsb' 0 3)⟩ := by
  simp only [unpack, extractLsb'_one]

theorem lowBits_congr {b c : Byte} (h : ∀ j < 3, b.getLsbD j = c.getLsbD j) : b.extractLsb' 0 3 = c.extractLsb' 0 3 := by
  refine BitVec.eq_of_getLsbD_eq fun j hj => ?_
  simp [BitVec.getLsbD_extractLsb', h j hj]

@[simp] theorem decMeas_ofBool_beq (m : MeasurementMode) : decMeas (BitVec.ofBool (m == .continuous)) = m := by
  cases m <;> rfl
@[simp] theorem decCfgm_ofBool_beq (c : ConfigurationMode) : decCfgm (BitVec.ofBool (c == .manual)) = c := by
  cases c <;> rfl
@[simp] theorem decCdr_ofBool_beq (r : CurrentDivisionRatio) : decCdr (BitVec.ofBool (r == .oneEighth)) = r := by
  cases r <;> rfl

theorem unpack_upd1_measBit (c : Byte) (m : MeasurementMode) :
    unpack (upd1 c measBit (encMeas m)) = { unpack c with meas := m } := by
  have hlow : (upd1 c measBit (encMeas m)).extractLsb' 0 3 = c.extractLsb' 0 3 :=
    lowBits_congr fun j hj => by rw [upd1_measBit_getLsbD, if_neg (by omega)]
  simp [unpack_eq, upd1_measBit_getLsbD, hlow, -BitVec.getLsbD_eq_getElem]

theorem unpack_upd1_manualBit (c : Byte) (m : ConfigurationMode) :
    unpack (upd1 c manualBit (encCfgm m)) = { unpack c with cfgm := m } := by
  have hlow : (upd1 c manualBit (encCfgm m)).extractLsb' 0 3 = c.extractLsb' 0 3 :=
    lowBits_congr fun j hj => by rw [upd1_manualBit_getLsbD, if_neg (by omega)]
  simp [unpack_eq, upd1_manualBit_getLsbD, hlow, -BitVec.getLsbD_eq_getElem]

theorem unpack_upd1_cdrBit (c : Byte) (r : CurrentDivisionRatio) :
    unpack (upd1 c cdrBit (encCdr r)) = { unpack c with cdr := r } := by
  have hlow : (upd1 c cdrBit (encCdr r)).extractLsb' 0 3 = c.extractLsb' 0 3 :=
    lowBits_congr fun j hj => by rw [upd1_cdrBit_getLsbD, if_neg (by omega)]
  simp [unpack_eq, upd1_cdrBit_getLsbD, hlow, -BitVec.getLsbD_eq_getElem]

theorem unpack_updTim (c : Byte) (t : IntegrationTime) :
    unpack (updTim c (encTim t)) = { unpack c with tim := t } := by
  have hlow : (updTim c (encTim t)).extractLsb' 0 3 = encTim t := by
    rw [← BitVec.toNat_inj, BitVec.extractLsb'_toNat, Nat.shiftRight_zero]
    exact updTim_toNat_mod c (encTim t)
  simp [unpack_eq, updTim_getLsbD, hlow, -BitVec.getLsbD_eq_getElem]

theorem unpack_manual_iff (c : Byte) : (unpack c).cfgm = .manual ↔ c.getLsbD 6 = true := by
  simp only [unpack_eq]
  cases c.getLsbD 6 <;> decide

/-! ## A configuration setter that succeeds (R76 to R79) -/

/-- The fields that `i` writes to a block with the fields `f`, where it makes a configuration write. -/
def fieldsWritten : Instr → Fields → Option Fields
  | .setmeas m, f => some { f with meas := m }
  | .setcfgm c, f => some { f with cfgm := c }
  | .setcdr r, f => if f.cfgm = .manual then some { f with cdr := r } else none
  | .settim t, f => if f.cfgm = .manual then some { f with tim := t } else none
  | _, _ => none

theorem commandEffect_of_fieldsWritten {i : Instr} {s : Generic.State E} {f : Fields}
    (h : fieldsWritten i (unpack s.cfg) = some f) : ∃ v, unpack v = f ∧ commandEffect i s = writeConfig v s := by
  cases i with
  | setmeas m => exact ⟨_, (unpack_upd1_measBit s.cfg m).trans (Option.some.inj h), rfl⟩
  | setcfgm c => exact ⟨_, (unpack_upd1_manualBit s.cfg c).trans (Option.some.inj h), rfl⟩
  | setcdr r =>
    obtain ⟨hmanual, hf⟩ := Option.ite_none_right_eq_some.mp h
    exact ⟨_, (unpack_upd1_cdrBit s.cfg r).trans (Option.some.inj hf),
      guardManual_open _ s ((unpack_manual_iff s.cfg).mp hmanual)⟩
  | settim t =>
    obtain ⟨hmanual, hf⟩ := Option.ite_none_right_eq_some.mp h
    exact ⟨_, (unpack_updTim s.cfg t).trans (Option.some.inj hf),
      guardManual_open _ s ((unpack_manual_iff s.cfg).mp hmanual)⟩
  | _ => cases h

theorem exec_fieldsWritten {i : Instr} {s : State} {f : Fields} (ha : s.writeAnswer = .ok)
    (h : fieldsWritten i (unpack s.cfg) = some f) : ∃ t, exec i s = .next t ∧ unpack t.cfg = f := by
  obtain ⟨v, rfl, heffect⟩ := commandEffect_of_fieldsWritten h
  refine ⟨_, exec_eq_next_commandEffect i s, ?_⟩
  rw [heffect, writeConfig_cfg, ha, cfgAfterWrite]

/-- Settles O20: each setter writes a byte with the fields of `CFG` but for its own, and the byte becomes `CFG`. -/
theorem setterSetsOneField : Obligations.SetterSetsOneField := fun _ ha =>
  ⟨fun _ => exec_fieldsWritten ha rfl, fun _ => exec_fieldsWritten ha rfl, fun hmanual =>
    ⟨fun _ => exec_fieldsWritten ha (if_pos hmanual), fun _ => exec_fieldsWritten ha (if_pos hmanual)⟩⟩

/-! ## The bytes that a run can reach (R22) -/

/-- Commands that each make a configuration write leave the fields they write in turn, when all writes succeed. -/
theorem run_fieldsWritten {commands : List Instr} {s : State} {f : Fields}
    (hf : commands.foldlM (fun g i => fieldsWritten i g) (unpack s.cfg) = some f) (hl : s.life = .live)
    (hhost : s.host = commands.map fun i => .word (encodeWord i))
    (hanswers : s.answers = List.replicate commands.length .ok) :
    ∃ t, core.run commands.length s = .next t ∧ unpack t.cfg = f ∧ t.refused = s.refused := by
  induction commands generalizing s with
  | nil => exact ⟨s, rfl, Option.some.inj hf, rfl⟩
  | cons i rest ih =>
    rw [List.foldlM_cons] at hf
    obtain ⟨g, hg, hrest⟩ := Option.bind_eq_some_iff.mp hf
    have ha : s.writeAnswer = .ok := writeAnswer_settled s .ok _ hanswers
    obtain ⟨v, rfl, heffect⟩ :=
      commandEffect_of_fieldsWritten (s := { s with host := rest.map fun i => .word (encodeWord i) }) hg
    have hstep := (step_decoded hhost hl (decodeWord_encodeWord i)).trans (exec_eq_next_commandEffect i _)
    rw [heffect, writeConfig_eq] at hstep
    have hcfg : cfgAfterWrite v s.cfg s.writeAnswer = v := by rw [ha]; rfl
    rw [← hcfg] at hrest
    rw [List.length_cons, run_succ _ s _ hstep]
    exact ih hrest hl rfl (congrArg List.tail hanswers)

theorem run_keepsInv {k : Nat} {s t : State} (hinv : BlockInv s) (h : core.run k s = .next t) : BlockInv t := by
  induction k generalizing s with
  | zero => cases h; exact hinv
  | succ k ih =>
    obtain ⟨u, hstep, hrun⟩ := run_succ_next k s t h
    exact ih (step_keepsInv hinv hstep) hrun

/-- Commands that bring any created block to the fields `f`: the guarded ones in manual mode, SETCFGM last. -/
def commandsFor (f : Fields) : List Instr :=
  [.setcfgm .manual, .setcdr f.cdr, .settim f.tim, .setmeas f.meas, .setcfgm f.cfgm]

theorem commandsFor_fieldsWritten (f g : Fields) :
    (commandsFor f).foldlM (fun g i => fieldsWritten i g) g = some f := rfl

theorem run_reaches (sel : AddressSelector) (f : Fields) : ∃ words t,
    core.run words.length ((State.create sel).withInputs words (List.replicate words.length .ok)) = .next t ∧
      unpack t.cfg = f ∧ t.refused = none := by
  refine ⟨(commandsFor f).map encodeWord, ?_⟩
  rw [List.length_map]
  exact run_fieldsWritten (commandsFor_fieldsWritten f _) rfl (List.map_map ..) rfl

theorem reservedClear_count : ((List.range 256).filter (fun n => BitVec.ofNat 8 n &&& 0x30#8 == 0#8)).length = 64 := by
  decide

/-- Settles O48: the commands for the fields of a byte reach its fields, which fix a byte with clear reserved bits. -/
theorem reachableCfgExact : Obligations.ReachableCfgExact := by
  have hclear {sel words answers k} {t : State}
      (h : core.run k ((State.create sel).withInputs words answers) = .next t) : t.cfg &&& 0x30#8 = 0#8 :=
    (run_keepsInv (create_withInputs_inv sel words answers) h).reservedClear
  refine ⟨fun sel b hb => ?_, fun _ _ _ _ _ => hclear, reservedClear_count⟩
  obtain ⟨words, t, hrun, hfields, hmark⟩ := run_reaches sel (unpack b)
  refine ⟨words, t, hrun, ?_, hmark⟩
  rw [← pack_unpack (hclear hrun), hfields, pack_unpack hb]

/-- Refutes O49: 128 different bytes that runs leave in `CFG` would be among the 64 whose bits 5:4 are clear. -/
theorem not_reservedClearBytesNumber128 : ¬ Obligations.ReservedClearBytesNumber128 := by
  rintro ⟨bytes, hnodup, hlength, hreached⟩
  have hsub : bytes.map BitVec.toNat ⊆ (List.range 256).filter (fun n => BitVec.ofNat 8 n &&& 0x30#8 == 0#8) := by
    intro n hn
    obtain ⟨b, hb, rfl⟩ := List.mem_map.mp hn
    obtain ⟨words, answers, k, t, hrun, rfl⟩ := hreached b hb
    have hclear := (run_keepsInv (create_withInputs_inv .default words answers) hrun).reservedClear
    refine List.mem_filter.mpr ⟨List.mem_range.mpr t.cfg.isLt, beq_iff_eq.mpr ?_⟩
    rwa [BitVec.ofNat_toNat, BitVec.setWidth_eq]
  have hle := (List.subperm_of_subset (hnodup.map fun _ _ => BitVec.eq_of_toNat_eq) hsub).length_le
  rw [List.length_map, hlength, reservedClear_count] at hle
  exact absurd hle (by decide)

end Sys2Proof.Proofs

/-! PROOF. The F32 lux value is the nearest binary32 value (R86, G2), and every association of the product gives it (R86). -/

namespace Sys2Proof.Proofs

open Sys2Proof.Machine Sys2Proof.Laws

/-! ## The value of an encoding, in units of the smallest subnormal number -/

/-- The value of the encoding `x`, a whole number of units. -/
def unitsOf (f : FloatFormat) (x : Nat) : Nat := significandOf f x * 2 ^ (exponentOf f x - f.minExp).toNat

/-- `x` encodes the significand `s` in the unit `2^u` of the smallest subnormal number. A significand that a rounding has
carried to the next power of two is allowed. -/
structure Encodes (f : FloatFormat) (x u s : Nat) : Prop where
  bits : x = u * 2 ^ f.fracBits + s
  le : s ≤ 2 ^ (f.fracBits + 1)
  leading : u = 0 ∨ 2 ^ f.fracBits ≤ s

theorem unitsOf_normal (f : FloatFormat) {q r : Nat} (hr : r < 2 ^ f.fracBits) :
    unitsOf f (q * 2 ^ f.fracBits + (2 ^ f.fracBits + r)) = (2 ^ f.fracBits + r) * 2 ^ q := by
  rw [unitsOf, significandOf_normal f hr, exponentOf_normal f hr, add_sub_cancel_left, Int.toNat_natCast]

theorem unitsOf_subnormal (f : FloatFormat) {x : Nat} (hx : x < 2 ^ f.fracBits) : unitsOf f x = x := by
  have hexp : exponentOf f x - f.minExp = 0 := by rw [exponentOf, Nat.div_eq_of_lt hx]; omega
  rw [unitsOf, hexp, significandOf, if_pos (Nat.div_eq_of_lt hx), Int.toNat_zero, Nat.pow_zero, Nat.mul_one]

/-- An encoding's value is its significand in its unit, with or without a carry. -/
theorem Encodes.unitsOf_eq {f : FloatFormat} {x u s : Nat} (h : Encodes f x u s) : unitsOf f x = s * 2 ^ u := by
  obtain ⟨rfl, hle, hleading⟩ := h
  by_cases hsub : s < 2 ^ f.fracBits
  · obtain rfl : u = 0 := hleading.resolve_right (Nat.not_le.mpr hsub)
    rw [Nat.zero_mul, Nat.zero_add, Nat.pow_zero, Nat.mul_one, unitsOf_subnormal f hsub]
  · obtain ⟨r, rfl⟩ := Nat.exists_eq_add_of_le (Nat.not_lt.mp hsub)
    rw [Nat.pow_succ] at hle
    rcases Nat.lt_or_ge r (2 ^ f.fracBits) with hr | hr
    · exact unitsOf_normal f hr
    · obtain rfl : r = 2 ^ f.fracBits := by omega
      have hcarry : u * 2 ^ f.fracBits + (2 ^ f.fracBits + 2 ^ f.fracBits) =
          (u + 1) * 2 ^ f.fracBits + (2 ^ f.fracBits + 0) := by ring
      rw [hcarry, unitsOf_normal f (Nat.two_pow_pos _)]
      ring

theorem exists_encodes (f : FloatFormat) (x : Nat) : ∃ u s, Encodes f x u s ∧ s < 2 ^ (f.fracBits + 1) := by
  have hx := Nat.div_add_mod' x (2 ^ f.fracBits)
  have hr := Nat.mod_lt x (Nat.two_pow_pos f.fracBits)
  have hpow : 2 ^ (f.fracBits + 1) = 2 ^ f.fracBits * 2 := Nat.pow_succ ..
  cases hq : x / 2 ^ f.fracBits with
  | zero =>
    rw [hq] at hx
    exact ⟨0, x, ⟨by omega, by omega, .inl rfl⟩, by omega⟩
  | succ u =>
    rw [hq, Nat.add_one_mul] at hx
    exact ⟨u, 2 ^ f.fracBits + x % 2 ^ f.fracBits, ⟨by omega, by omega, .inr (Nat.le_add_right _ _)⟩, by omega⟩

/-- The next encoding has the next significand in the same unit. -/
theorem unitsOf_strictMono (f : FloatFormat) : StrictMono (unitsOf f) := by
  refine strictMono_nat_of_lt_succ fun x => ?_
  obtain ⟨u, s, h, hs⟩ := exists_encodes f x
  have hnext : Encodes f (x + 1) u (s + 1) :=
    ⟨by rw [h.bits, Nat.add_assoc], hs, h.leading.imp_right (Nat.le_add_right_of_le ·)⟩
  rw [h.unitsOf_eq, hnext.unitsOf_eq]
  exact Nat.mul_lt_mul_of_pos_right (Nat.lt_add_one s) (Nat.two_pow_pos u)

/-! ## Rounding a number of units -/

theorem significandIn_natUnit (e : Int) (n u : Nat) : significandIn (e + u) n e = roundShift n u := by
  unfold significandIn
  split
  · obtain rfl : u = 0 := by omega
    simpa using (roundShift_exact n 0).symm
  · congr 1
    omega

theorem unitOf_minExp (f : FloatFormat) (n : Nat) :
    unitOf f n f.minExp = f.minExp + (Nat.log2 n - f.fracBits : Nat) := by
  unfold unitOf
  omega

/-- A number of units is rounded in the unit that leaves its significand `fracBits + 1` bits. -/
theorem roundMagnitude_units (f : FloatFormat) {n : Nat} (hn : n ≠ 0) :
    roundMagnitude f n f.minExp =
      min ((Nat.log2 n - f.fracBits) * 2 ^ f.fracBits + roundShift n (Nat.log2 n - f.fracBits)) f.infBits := by
  rw [roundMagnitude_of_ne_zero f _ hn, unitOf_minExp, significandIn_natUnit, add_sub_cancel_left, Int.toNat_natCast]

/-- A finite rounded number of units encodes its rounded significand. -/
theorem roundMagnitude_encodes {f : FloatFormat} {n : Nat} (hn : n ≠ 0) (hfin : roundMagnitude f n f.minExp < f.infBits) :
    Encodes f (roundMagnitude f n f.minExp) (Nat.log2 n - f.fracBits) (roundShift n (Nat.log2 n - f.fracBits)) := by
  have hle := significandIn_unitOf_le f n f.minExp
  have hleading := le_significandIn_unitOf f (e := f.minExp) hn
  rw [unitOf_minExp, significandIn_natUnit] at hle hleading
  rw [roundMagnitude_units f hn] at hfin ⊢
  refine ⟨Nat.min_eq_left ?_, hle, (Nat.eq_zero_or_pos _).imp_right fun hpos => hleading (by omega)⟩
  exact ((min_lt_iff.mp hfin).resolve_right (lt_irrefl _)).le

/-- The number of units of an encoding rounds to that encoding. -/
theorem roundMagnitude_unitsOf {f : FloatFormat} {x : Nat} (hx : x < f.infBits) :
    roundMagnitude f (unitsOf f x) f.minExp = x := by
  obtain ⟨u, s, h, hs⟩ := exists_encodes f x
  rw [h.unitsOf_eq]
  by_cases hzero : s = 0
  · have hleading := h.leading
    have hpos := Nat.two_pow_pos f.fracBits
    obtain rfl : u = 0 := by omega
    simp [h.bits, hzero]
  · have hlog : Nat.log2 (s * 2 ^ u) - f.fracBits = u := by
      have hlt := (Nat.log2_lt hzero).mpr hs
      have hleading := h.leading.imp_right (Nat.le_log2 hzero).mpr
      rw [log2_mul_twoPow hzero]
      omega
    rw [roundMagnitude_units f (Nat.mul_ne_zero hzero (Nat.two_pow_pos u).ne'), hlog, roundShift_exact, ← h.bits]
    exact Nat.min_eq_left hx.le

/-! ## The nearest value (G2) -/

/-- Of the multiples of `2^u` none is nearer to `n` than the rounded one, which is even if another is equally near. -/
theorem roundShift_nearest (n u k : Nat) :
    (((roundShift n u * 2 ^ u : Nat) : Int) - n).natAbs ≤ (((k * 2 ^ u : Nat) : Int) - n).natAbs ∧
      ((((roundShift n u * 2 ^ u : Nat) : Int) - n).natAbs = (((k * 2 ^ u : Nat) : Int) - n).natAbs →
        k ≠ roundShift n u → roundShift n u % 2 = 0) := by
  obtain ⟨hhigh, hlow, hevenHigh, hevenLow⟩ := roundShift_near n u
  generalize roundShift n u = s at *
  rcases Nat.lt_trichotomy k s with hlt | rfl | hgt
  · have hstep : k * 2 ^ u + 2 ^ u ≤ s * 2 ^ u := by
      rw [← Nat.add_one_mul]; exact Nat.mul_le_mul_right _ hlt
    generalize k * 2 ^ u = a at *
    generalize s * 2 ^ u = b at *
    omega
  · exact ⟨Nat.le_refl _, fun _ hne => absurd rfl hne⟩
  · have hstep : s * 2 ^ u + 2 ^ u ≤ k * 2 ^ u := by
      rw [← Nat.add_one_mul]; exact Nat.mul_le_mul_right _ hgt
    generalize k * 2 ^ u = a at *
    generalize s * 2 ^ u = b at *
    omega

/-- The encoding `x` is nearest to `n` units: no other is nearer, and it is even if another is equally near. -/
def NearestEven (f : FloatFormat) (n x : Nat) : Prop :=
  ∀ y, ((unitsOf f x : Int) - n).natAbs ≤ ((unitsOf f y : Int) - n).natAbs ∧
    (((unitsOf f x : Int) - n).natAbs = ((unitsOf f y : Int) - n).natAbs → y ≠ x → x % 2 = 0)

/-- An encoding in the same unit or a greater one is a multiple of the unit of the rounded one; one in a smaller unit lies
below a multiple of it that is not above `n`. -/
theorem roundMagnitude_nearestEven {f : FloatFormat} (hfrac : f.fracBits ≠ 0) {n : Nat}
    (hfin : roundMagnitude f n f.minExp < f.infBits) : NearestEven f n (roundMagnitude f n f.minExp) := by
  by_cases hn : n = 0
  · subst hn
    rw [roundMagnitude_zero]
    exact fun y => ⟨by simp [unitsOf, significandOf], fun _ _ => rfl⟩
  intro y
  have hx := roundMagnitude_encodes hn hfin
  have hlog := Nat.log2_self_le hn
  generalize roundMagnitude f n f.minExp = x at *
  generalize hu : Nat.log2 n - f.fracBits = u at *
  obtain ⟨v, t, hy, ht⟩ := exists_encodes f y
  have heven : roundShift n u % 2 = 0 → x % 2 = 0 := by
    have : u * 2 ^ f.fracBits % 2 = 0 := by
      rw [Nat.mul_mod, ← Nat.succ_pred hfrac, Nat.pow_succ]; simp
    rw [hx.bits]
    omega
  rw [hx.unitsOf_eq, hy.unitsOf_eq]
  by_cases huv : u ≤ v
  · have hmultiple : t * 2 ^ v = t * 2 ^ (v - u) * 2 ^ u := by
      rw [Nat.mul_assoc, ← Nat.pow_add, Nat.sub_add_cancel huv]
    obtain ⟨hle, htie⟩ := roundShift_nearest n u (t * 2 ^ (v - u))
    rw [← hmultiple] at hle htie
    refine ⟨hle, fun heq hne => heven (htie heq fun hsame => hne ?_)⟩
    apply (unitsOf_strictMono f).injective
    rw [hx.unitsOf_eq, hy.unitsOf_eq, hmultiple, hsame]
  · obtain ⟨hle, -⟩ := roundShift_nearest n u (2 ^ f.fracBits)
    have hbelow : t * 2 ^ v < 2 ^ f.fracBits * 2 ^ u := by
      calc t * 2 ^ v < 2 ^ (f.fracBits + 1) * 2 ^ v := Nat.mul_lt_mul_of_pos_right ht (Nat.two_pow_pos v)
        _ = 2 ^ (f.fracBits + (v + 1)) := by ring
        _ ≤ 2 ^ (f.fracBits + u) := Nat.pow_le_pow_right (by decide) (by omega)
        _ = 2 ^ f.fracBits * 2 ^ u := Nat.pow_add ..
    have hmultiple : 2 ^ f.fracBits * 2 ^ u ≤ n := by
      rw [← Nat.pow_add]
      exact (Nat.pow_le_pow_right (by decide) (by omega)).trans hlog
    generalize 2 ^ f.fracBits * 2 ^ u = p at *
    generalize t * 2 ^ v = b at *
    generalize roundShift n u * 2 ^ u = a at *
    omega

/-! ## Products as rounded numbers of units -/

theorem unitsOf_f32OfNat {n : Nat} (hn : n < 2 ^ 24) : unitsOf binary32 (f32OfNat n).toNat = n * 2 ^ 149 :=
  f32OfNat_exact hn

theorem unitsOf_luxC : unitsOf binary32 Config.luxC.toNat = 3019899 * 2 ^ 123 := by decide

/-- A value is its number of units, whatever its exponent is. -/
theorem roundMagnitude_significands (f : FloatFormat) (x y : Nat) :
    roundMagnitude f (significandOf f x * significandOf f y) (exponentOf f x + exponentOf f y) =
      roundMagnitude f (unitsOf f x * unitsOf f y) (f.minExp + f.minExp) := by
  have hx := exponentOf_eq_add_toNat f x
  have hy := exponentOf_eq_add_toNat f y
  rw [unitsOf, unitsOf]
  generalize (exponentOf f x - f.minExp).toNat = j at *
  generalize (exponentOf f y - f.minExp).toNat = k at *
  have hexp : f.minExp + f.minExp = exponentOf f x + exponentOf f y - (j + k : Nat) := by omega
  rw [mul_mul_mul_comm, ← Nat.pow_add, hexp, roundMagnitude_mul_twoPow]

/-- A product with a converted number is that many times the other factor's units, rounded once. -/
theorem mulF32_f32OfNat {n : Nat} {b : Binary32} (hn : n < 2 ^ 24) (hb : b.toNat < binary32.infBits) :
    (mulF32 (f32OfNat n) b).toNat = roundMagnitude binary32 (n * unitsOf binary32 b.toNat) (-149) := by
  rw [mulF32_toNat (f32OfNat_toNat_lt hn) hb, roundMagnitude_significands, unitsOf_f32OfNat hn, mul_right_comm]
  have hexp : binary32.minExp + binary32.minExp = -149 - (149 : Nat) := by decide
  rw [hexp, roundMagnitude_mul_twoPow]

/-! ## The F32 lux value -/

/-- The lux value is the exact product, in units, rounded once. -/
theorem luxScaleUnder_f32_toNat_units {count : Nat} (h : count < 2 ^ 24) :
    (luxScaleUnder .f32 count).toNat = roundMagnitude binary32 (count * (3019899 * 2 ^ 123)) (-149) := by
  rw [← unitsOf_luxC]
  exact mulF32_f32OfNat h (by decide)

theorem luxScaleUnder_f32_finite {count : Nat} (h : count < 2 ^ 24) :
    (luxScaleUnder .f32 count).toNat < binary32.infBits := by
  have hmax : (luxScaleUnder .f32 (2 ^ 24 - 1)).toNat < binary32.infBits := by decide
  exact (luxScaleUnder_f32_mono (Nat.le_sub_one_of_lt h) (by decide)).trans_lt hmax

theorem luxScaleUnder_f32_nearestEven {count : Nat} (h : count < 2 ^ 24) :
    NearestEven binary32 (count * (3019899 * 2 ^ 123)) (luxScaleUnder .f32 count).toNat := by
  have hfin := luxScaleUnder_f32_finite h
  rw [luxScaleUnder_f32_toNat_units h, ← binary32_minExp] at *
  exact roundMagnitude_nearestEven (by decide) hfin

theorem unitsOf_binary32 (x : Nat) :
    unitsOf binary32 x = significandOf binary32 x * 2 ^ (exponentOf binary32 x + 149).toNat := by
  rw [unitsOf, binary32_minExp, sub_neg_eq_add]

/-- Settles O44: the product rounds to the nearest number of units that an encoding has. -/
theorem luxRoundsToNearestEven : Obligations.LuxRoundsToNearestEven := by
  intro count hcount y _
  have hexact : ((count * (3019899 * 2 ^ 123) : Nat) : Int) = count * 3019899 * 2 ^ 123 := by push_cast; ring
  have hnearest := luxScaleUnder_f32_nearestEven hcount y
  rw [hexact, unitsOf_binary32, unitsOf_binary32] at hnearest
  exact hnearest

/-! ## Associations of the product (R86) -/

/-- In the normal range, a power of two moves the exponent and leaves the significand. -/
theorem roundMagnitude_twoPow_mul {f : FloatFormat} {n : Nat} (k : Nat) (hn : 2 ^ f.fracBits ≤ n)
    (hfin : roundMagnitude f n f.minExp + k * 2 ^ f.fracBits < f.infBits) :
    roundMagnitude f (2 ^ k * n) f.minExp = roundMagnitude f n f.minExp + k * 2 ^ f.fracBits := by
  have hzero : n ≠ 0 := ((Nat.two_pow_pos _).trans_le hn).ne'
  have hfrac : f.fracBits ≤ Nat.log2 n := (Nat.le_log2 hzero).mpr hn
  have hunit : Nat.log2 (n * 2 ^ k) - f.fracBits = Nat.log2 n - f.fracBits + k := by
    rw [log2_mul_twoPow hzero]; omega
  rw [Nat.mul_comm, roundMagnitude_units f (Nat.mul_ne_zero hzero (Nat.two_pow_pos k).ne'), hunit, roundShift_mul_twoPow]
  rw [roundMagnitude_units f hzero] at hfin ⊢
  rw [Nat.add_mul]
  omega

/-- The conversion is exact, so a product of two converted numbers that stays below `2^24` is converted too. -/
theorem mulF32_f32OfNat_f32OfNat {a b : Nat} (ha : a < 2 ^ 24) (hb : b < 2 ^ 24) :
    mulF32 (f32OfNat a) (f32OfNat b) = f32OfNat (a * b) := by
  apply BitVec.eq_of_toNat_eq
  rw [mulF32_f32OfNat ha (f32OfNat_toNat_lt hb), unitsOf_f32OfNat hb, f32OfNat_toNat, ← Nat.mul_assoc]
  exact roundMagnitude_mul_twoPow binary32 (a * b) 149 0

theorem mulF32_twoPow_zero {e : Nat} (he : 2 ^ e < 2 ^ 24) : mulF32 (f32OfNat (2 ^ e)) 0#32 = 0#32 := by
  have hunits : unitsOf binary32 (0#32).toNat = 0 := by decide
  apply BitVec.eq_of_toNat_eq
  rw [mulF32_f32OfNat he (by decide), hunits, Nat.mul_zero, roundMagnitude_zero]
  rfl

/-- The rounded value and the exact product are both in the normal range, so the power of two moves their exponents alike. -/
theorem mulF32_twoPow_luxScale {e m : Nat} (he : 2 ^ e ≤ 2 ^ 15) (hm : m ≤ 255) :
    mulF32 (f32OfNat (2 ^ e)) (luxScaleUnder .f32 m) = luxScaleUnder .f32 (2 ^ e * m) := by
  by_cases hzero : m = 0
  · rw [hzero, Nat.mul_zero, luxScaleUnder_f32_zero, mulF32_twoPow_zero (by omega)]
  have hcount : 2 ^ e * m ≤ 2 ^ 15 * 255 := Nat.mul_le_mul he hm
  have he15 : e ≤ 15 := (Nat.pow_le_pow_iff_right (by decide)).mp he
  have hlow := le_luxScaleUnder_f32 (count := m) (by omega) (by omega)
  have hhigh := luxScaleUnder_f32_le (count := m) (by omega)
  have hvalue := luxScaleUnder_f32_toNat_units (count := m) (by omega)
  have hresult := luxScaleUnder_f32_toNat_units (count := 2 ^ e * m) (by omega)
  apply BitVec.eq_of_toNat_eq
  rw [hresult, mulF32_f32OfNat (by omega) (luxScaleUnder_f32_finite (by omega)), Nat.mul_assoc]
  generalize (luxScaleUnder .f32 m).toNat = y at *
  rw [← binary32_minExp] at hvalue ⊢
  have hfin : y + e * 2 ^ 23 < binary32.infBits := by rw [binary32_infBits]; omega
  have hy : roundMagnitude binary32 (unitsOf binary32 y) binary32.minExp = y := roundMagnitude_unitsOf (by omega)
  have hunits : y ≤ unitsOf binary32 y := (unitsOf_strictMono binary32).le_apply
  have hrounded : 2 ^ binary32.fracBits ≤ unitsOf binary32 y := by rw [binary32_fracBits]; omega
  have hexact : 2 ^ binary32.fracBits ≤ m * (3019899 * 2 ^ 123) := by rw [binary32_fracBits]; omega
  rw [roundMagnitude_twoPow_mul e hrounded (by rw [hy]; exact hfin),
    roundMagnitude_twoPow_mul e hexact (by rw [← hvalue]; exact hfin), hy, ← hvalue]

/-- Settles O45: the power of two only moves the exponent, and the product of the converted factors is exact. -/
theorem luxAssociation : Obligations.LuxAssociation := by
  intro e m he hm
  have he15 : 2 ^ e ≤ 2 ^ 15 := Nat.pow_le_pow_right (by decide) (by omega)
  refine ⟨mulF32_twoPow_luxScale he15 (by omega), ?_⟩
  rw [mulF32_f32OfNat_f32OfNat (by omega) (by omega)]
  rfl

/-! ## The vectors of V5 -/

/-- Settles O42: each listed count is a closed case of the two readings. -/
theorem luxVectors : Obligations.LuxVectors := by
  refine ⟨?_, ?_, ?_, ?_, ?_, ?_⟩ <;> decide

end Sys2Proof.Proofs
